-- ==== Sys2Proof/Word.lean ====
section
/-! DEFINITION. The word types of EMG-CODEC (00_scope.md R6): nothing but their widths. -/

namespace Sys2Proof

/-- One DMEM cell, 8 bits (R6). -/
abbrev Byte := BitVec 8

/-- One register of the window, one host access, one command word: 32 bits (R6). -/
abbrev Word := BitVec 32

/-- One IEEE 754 binary64 encoding: bit 63 the sign, bits 62:52 the exponent, bits 51:0 the
fraction (R6, 20_memory.md R55). -/
abbrev F64 := BitVec 64

/-- A byte offset from BASE in the 2 MiB register window: 0x000000 to 0x1FFFFF (10_state.md R19). -/
abbrev Offset := BitVec 21

/-- The 64 values of a block, element `8 * row + col` or `8 * u + v` (00_scope.md R7, R14). -/
abbrev Block := Vector F64 64

end Sys2Proof
end

