-- ==== Sys2Proof/Syntax.lean ====
section
/-! DEFINITION. The command set (30_encoding.md R74) and the statements of a host program
(20_memory.md R49, R50; 30_encoding.md R78). -/

namespace Sys2Proof

/-- The commands of Table 30-2, one constructor for each row of spec/opcode_table.json. A command word
carries no operand (30_encoding.md R72). -/
inductive Instr where
  | nop
  | fdct
  | idct
  | rep3Enc
  | rep3Dec
  | crc32
  | hdrBuild
  | hdrParse
deriving DecidableEq, Repr

/-- What a host access does at its offset (20_memory.md R49). -/
inductive AccessKind where
  | read
  | write (v : Word)
deriving DecidableEq, Repr

/-- One host access to the bus address BASE + `off`. Only 32-bit aligned ones are legal; the others
exist on the bus and get a bus error (20_memory.md R50). -/
structure Access where
  /-- The width of the access in bits. -/
  width : Nat
  off : Offset
  kind : AccessKind
deriving DecidableEq, Repr

/-- One statement of a host program (30_encoding.md R78). -/
inductive HostStmt where
  /-- `W off, v` or `R off`, and the ill-formed accesses of 20_memory.md R50. -/
  | access (a : Access)
  /-- `R off == v`, compared on the bits of `mask` only (`RMEM` leaves bytes out, R79). -/
  | expect (off : Offset) (mask v : Word)
  /-- `WAIT`: repeat a STATUS read until BUSY reads 0. -/
  | wait
  /-- Power-on reset, an event from outside (60_exceptions.md R136; log 12, DESIGN CHOICE). -/
  | powerOnReset
deriving DecidableEq, Repr

/-- `W off, v`. -/
def HostStmt.write (off : Offset) (v : Word) : HostStmt := .access ⟨32, off, .write v⟩

/-- `R off`. -/
def HostStmt.read (off : Offset) : HostStmt := .access ⟨32, off, .read⟩

end Sys2Proof
end

