-- ==== Sys2Proof/Decode.lean ====
section
/-! DEFINITION. The command decoder of 30_encoding.md R75, total on every 32-bit word, and the encoder
of Table 30-2. -/

namespace Sys2Proof

/-- Why a word is ILLEGAL (30_encoding.md R75, R76). -/
inductive DecodeError where
  /-- MBZ, bits 31:8, is not zero. -/
  | mbzNonzero
  /-- OPC is not in Table 30-2. -/
  | reservedOpcode
deriving DecidableEq, Repr

/-- The command of an opcode byte (Table 30-2). -/
def decodeOpcode : Nat → Except DecodeError Instr
  | 0x00 => .ok .nop
  | 0x01 => .ok .fdct
  | 0x02 => .ok .idct
  | 0x10 => .ok .rep3Enc
  | 0x11 => .ok .rep3Dec
  | 0x20 => .ok .crc32
  | 0x21 => .ok .hdrBuild
  | 0x22 => .ok .hdrParse
  | _ => .error .reservedOpcode

/-- `decode(w)` of 30_encoding.md R75: an `error` is ILLEGAL. -/
def decode (w : Word) : Except DecodeError Instr :=
  if w.extractLsb' 8 24 ≠ 0 then .error .mbzNonzero
  else decodeOpcode (w.extractLsb' 0 8).toNat

/-- The command word of Table 30-2. -/
def encode : Instr → Word
  | .nop => 0x00000000#32
  | .fdct => 0x00000001#32
  | .idct => 0x00000002#32
  | .rep3Enc => 0x00000010#32
  | .rep3Dec => 0x00000011#32
  | .crc32 => 0x00000020#32
  | .hdrBuild => 0x00000021#32
  | .hdrParse => 0x00000022#32

/-- The 32-bit bus value of an instruction whose low `nbits` bits are those of `w`, every bit above
them 0. The block fetches no bytes: a command is one bus value (20_memory.md R57). -/
def tableWord (nbits w : Nat) : Word := BitVec.ofNat 32 (w % 2 ^ nbits)

/-- The instruction the decoder reads from an opcode-table word; `none` where it is ILLEGAL. -/
def decodeTableWord (nbits w : Nat) : Option Instr :=
  match decode (tableWord nbits w) with
  | .ok i => some i
  | .error _ => none

end Sys2Proof
end

