-- ==== Sys2Proof/Config.lean ====
section
/-! DEFINITION. The implementation parameters of 00_scope.md R5 (Table 00-1) and the free values: what
the spec leaves open and no proof may know. -/

namespace Sys2Proof

/-- TRANSFORM_IMPL (R8): `ref64` computes the binary64 dataflow bit for bit, `opaqueImpl` (the spec's
ABSTRACT) some function of the 64 input elements. -/
inductive TransformImpl where
  | ref64
  | opaqueImpl
deriving DecidableEq, Repr

/-- COS_TABLE (R5) in its two forms: the constants c_1 to c_7 (c_0 is 1.0), or the 64 entries T[i][u]
in the order `8 * i + u` (40_transform.md R85, R86; 92_eei_decisions.md, open parameters). -/
inductive CosTable where
  | constants (c : Vector F64 7)
  | entries (t : Vector F64 64)
deriving DecidableEq, Repr

/-- The parameters of one instance (R5), fixed for its life (10_state.md R18). -/
structure Config where
  /-- BASE divided by 2 MiB: BASE is 2 MiB aligned (R5, 20_memory.md R64). -/
  baseIndex : Nat
  /-- log2 of DMEM_SIZE, legal from 12 to 20 (R5, 10_state.md R28). -/
  dmemLog2 : Nat
  /-- MAGIC[0..3]. -/
  magic : Vector Byte 4
  /-- VERSION. -/
  version : Byte
  cosTable : CosTable
  transformImpl : TransformImpl
deriving DecidableEq, Repr

/-- BASE, the bus address of offset 0 (20_memory.md R49, R64). -/
def Config.base (c : Config) : Nat := c.baseIndex * 0x200000

/-- DMEM_SIZE, the number of DMEM bytes (R5, 10_state.md R44). -/
def Config.dmemSize (c : Config) : Nat := 2 ^ c.dmemLog2

/-! ### OPEN parameters: the spec gives no default (R5; log 2, DESIGN CHOICE, safe) -/

/-- BASE / 2 MiB of the instance that `State.reset` describes. -/
opaque Config.openBaseIndex : Nat

/-- MAGIC of the instance that `State.reset` describes. -/
opaque Config.openMagic : Vector Byte 4

/-- VERSION of the instance that `State.reset` describes. -/
opaque Config.openVersion : Byte

/-- The default COS_TABLE: c_k = RN(cos(k·π/16)) for k = 1 to 7 (40_transform.md R85). -/
def Config.defaultCosTable : CosTable :=
  .constants #v[0x3FEF6297CFF75CB0#64, 0x3FED906BCF328D46#64, 0x3FEA9B66290EA1A3#64,
    0x3FE6A09E667F3BCD#64, 0x3FE1C73B39AE68C8#64, 0x3FD87DE2A6AEA963#64, 0x3FC8F8B83C69A60B#64]

/-- The instance with every default of Table 00-1 and the OPEN parameters left open (log 1). -/
def Config.standard : Config where
  baseIndex := Config.openBaseIndex
  dmemLog2 := 16
  magic := Config.openMagic
  version := Config.openVersion
  cosTable := Config.defaultCosTable
  transformImpl := .ref64

/-! ### The transform functions under ABSTRACT (R8; 93_implementation_defined.md U3; log 7, safe) -/

/-- fwd_impl: an open function; only 40_transform.md R91 may be assumed of it. -/
opaque Config.fwdImpl : Block → Block

/-- inv_impl: an open function; only 40_transform.md R91 may be assumed of it. -/
opaque Config.invImpl : Block → Block

/-! ### Free values ("draws"), indexed by the counter `Env.draws` of the state (log 22, safe) -/

/-- How many host steps may come between an acceptance and the engine's step: finite, otherwise
unconstrained (70_reset_and_hazards.md R153, U20; log 4). -/
opaque Config.engineDelay : Nat → Nat

/-- What a host read returns where the spec says "an unspecified value" (70_reset_and_hazards.md R143,
R149; U6, U7, U9; log 5): a value for each draw index, each value of BUSY and each offset. A read takes no
draw, because two reads with no write or engine step between them return the same value (20_memory.md
R63). -/
opaque Config.freeRead : Nat → Bool → Offset → Word

/-- The sign of a NaN result (40_transform.md R94, U1; log 6). -/
opaque Config.freeNaNSign : Nat → Bool

/-- The fraction of a NaN result, where it is not zero (40_transform.md R94, U1; log 6). -/
opaque Config.freeNaNFraction : Nat → BitVec 52

/-- An output element under ABSTRACT of a block with a non-finite input (40_transform.md R94, U2;
log 7). -/
opaque Config.freeElement : Nat → F64

end Sys2Proof
end

