-- ==== Sys2Proof/Machine/State.lean ====
section
/-! DEFINITION. The state of one EMG-CODEC instance, (REGS, BLK, COSROM, DMEM, ENG) of 10_state.md R16,
with the model's own fields (`cfg`, `env`) beside it; the state after power-on reset; and the reasons a
step can stop. COSROM and the constant registers are functions of `cfg` (R18). -/

namespace Sys2Proof.Machine

/-- STATUS.ERR_CODE (60_exceptions.md R127). Codes 11 to 255 are "never reported": they have no
constructor. -/
inductive ErrCode where
  | none
  | illegalCmd
  | range
  | overlap
  | badArg
  | insufficientBits
  | frameTooShort
  | invalidMagic
  | invalidLength
  | crcMismatch
  | unsupportedScheme
deriving DecidableEq, Repr

/-- The stored fields of STATUS (10_state.md R30). BUSY is `Engine.pending` (R46) and ERR is a
function of `errCode`: each is held once (log 13). -/
structure Status where
  done : Bool
  busyWr : Bool
  fpNonfinite : Bool
  hdrVerMismatch : Bool
  hdrSchemeUnsup : Bool
  hdrRsvdNz : Bool
  errCode : ErrCode
deriving DecidableEq, Repr

/-- The registers of Table 10-1 that hold state (10_state.md R19 to R36). -/
structure Regs where
  /-- CTRL.IE, the one stored bit of CTRL (R29). -/
  ctrlIe : Bool
  status : Status
  /-- CMD read-back: the last accepted word (R31). -/
  cmd : Word
  errInfo : Word
  arg0 : Word
  arg1 : Word
  arg2 : Word
  crcRes : Word
  hdrMagic : Word
  hdrVersion : Word
  hdrScheme : Word
  hdrRsvd : Word
  hdrLen : Word
  hdrCrc : Word
  payloadAddr : Word
  outBits : Word
  outBytes : Word
deriving DecidableEq, Repr

/-- One element of BLK (10_state.md R40, R41): its two 32-bit halves, each `none` where nothing has
written it. The element has a value only when both halves are there. -/
structure BlkElem where
  /-- Bits 31:0. -/
  lo : Option Word
  /-- Bits 63:32. -/
  hi : Option Word
deriving DecidableEq, Repr

/-- DMEM (10_state.md R44): the bytes that have a value, addresses strictly rising. An address that is
not listed has no value (log 8, safe). -/
abbrev Memory := List Host.Cell

/-- The canonical form of DMEM: strictly rising addresses. "No value" is never listed. -/
abbrev Memory.wf (m : Memory) : Prop := m.Pairwise fun c d => c.1 < d.1

/-- ENG, the engine's hidden state (10_state.md R46). -/
structure Engine where
  /-- PENDING, which STATUS.BUSY shows. -/
  pending : Bool
  /-- LCMD, the latched command word. -/
  lcmd : Word
  /-- LARG[0..2], the latched operands. -/
  larg0 : Word
  larg1 : Word
  larg2 : Word
deriving DecidableEq, Repr

/-- What stands around the block: the model's own fields, none of them the spec's (log 3, 4, 11, 22). -/
structure Env where
  /-- What the host program still performs, in its order. -/
  todo : List HostStmt
  /-- How many host steps may still come before the engine's step. -/
  delay : Nat
  /-- The data the last host read returned. -/
  rdata : Option Word
  /-- The index of the next free value. -/
  draws : Nat
deriving DecidableEq, Repr

/-- One instance and its host. -/
structure State where
  /-- The parameters, which no step changes (10_state.md R18; log 1). -/
  cfg : Config
  regs : Regs
  blk : Vector BlkElem 64
  dmem : Memory
  eng : Engine
  env : Env
deriving DecidableEq, Repr

/-- Why a step stops. Every one is a stop that the spec gives its model, and safe: no claim can be
proved of what comes after. -/
inductive Fault where
  /-- Raised by a host access that is not 32 bits wide at a multiple of 4: the bus error of
  20_memory.md R50, R51. Safe. -/
  | busError (a : Access)
  /-- Raised by a host program's assertion that does not hold (30_encoding.md R78; log 10). Safe. -/
  | assertionFailed (off : Offset) (got : Word)
  /-- Raised by FDCT and IDCT where a BLK element has no value (20_memory.md R61). Safe. -/
  | blkNoValue (cmd : Instr)
  /-- Raised by a command that reads a DMEM byte with no value (20_memory.md R61). Safe. -/
  | dmemNoValue (cmd : Instr)
deriving DecidableEq, Repr

/-- Why a step has no meaning. -/
inductive Refusal where
  /-- Raised by `exec` for an instruction that has no meaning yet; no arm is left that raises it. Safe. -/
  | notModelled (mnemonic : String)
deriving DecidableEq, Repr

/-- STATUS after reset: every flag 0 (70_reset_and_hazards.md R143). -/
def Status.reset : Status where
  done := false
  busyWr := false
  fpNonfinite := false
  hdrVerMismatch := false
  hdrSchemeUnsup := false
  hdrRsvdNz := false
  errCode := .none

/-- The registers after reset: the first rows of the table of 70_reset_and_hazards.md R143. -/
def Regs.reset : Regs where
  ctrlIe := false
  status := Status.reset
  cmd := 0
  errInfo := 0
  arg0 := 0
  arg1 := 0
  arg2 := 0
  crcRes := 0
  hdrMagic := 0
  hdrVersion := 0
  hdrScheme := 0
  hdrRsvd := 0
  hdrLen := 0
  hdrCrc := 0
  payloadAddr := 0
  outBits := 0
  outBytes := 0

/-- ENG after reset (70_reset_and_hazards.md R143). -/
def Engine.reset : Engine where
  pending := false
  lcmd := 0
  larg0 := 0
  larg1 := 0
  larg2 := 0

/-- An element that has no value. -/
def BlkElem.noValue : BlkElem := ⟨none, none⟩

/-- The host before its program: nothing to do, nothing read (log 3, 4, 11, 22). -/
def Env.start : Env where
  todo := []
  delay := 0
  rdata := none
  draws := 0

/-- An instance with the parameters `c` right after power-on reset (70_reset_and_hazards.md R143), with
the surroundings `e`. -/
def State.powerOn (c : Config) (e : Env) : State where
  cfg := c
  regs := Regs.reset
  blk := Vector.replicate 64 BlkElem.noValue
  dmem := []
  eng := Engine.reset
  env := e

/-- The machine right after reset, with the defaults of Table 00-1 (00_scope.md R5; log 1). -/
def State.reset : State := State.powerOn Config.standard Env.start

end Sys2Proof.Machine
end

