-- ==== Sys2Proof/Machine/Flags.lean ====
section
/-! DEFINITION. STATUS and CTRL as words, the flags' own rules, and the interrupt output
(10_state.md R29, R30, R38, R47; 60_exceptions.md R127, R135). -/

namespace Sys2Proof.Machine

/-- The number of an error code (60_exceptions.md R127). -/
def ErrCode.toByte : ErrCode → Byte
  | .none => 0
  | .illegalCmd => 1
  | .range => 2
  | .overlap => 3
  | .badArg => 4
  | .insufficientBits => 5
  | .frameTooShort => 6
  | .invalidMagic => 7
  | .invalidLength => 8
  | .crcMismatch => 9
  | .unsupportedScheme => 10

/-- One bit at place `n` of a word. -/
def bitAt (b : Bool) (n : Nat) : Word := if b then (1#32) <<< n else 0

/-- STATUS.ERR equals (ERR_CODE != 0) (10_state.md R30). -/
def Status.err (st : Status) : Bool := decide (st.errCode ≠ .none)

/-- STATUS.BUSY shows PENDING (10_state.md R30, R46). -/
def State.busy (s : State) : Bool := s.eng.pending

/-- The word a read of STATUS returns (10_state.md R30). -/
def State.statusWord (s : State) : Word :=
  let st := s.regs.status
  bitAt s.busy 0 ||| bitAt st.done 1 ||| bitAt st.err 2 ||| bitAt st.busyWr 3 |||
  bitAt st.fpNonfinite 4 ||| bitAt st.hdrVerMismatch 5 ||| bitAt st.hdrSchemeUnsup 6 |||
  bitAt st.hdrRsvdNz 7 ||| (st.errCode.toByte.setWidth 32 <<< 8)

/-- The word a read of CTRL returns: SRST and the reserved bits read 0 (10_state.md R29). -/
def State.ctrlWord (s : State) : Word := bitAt s.regs.ctrlIe 0

/-- IRQ = STATUS.DONE AND CTRL.IE (10_state.md R47, 60_exceptions.md R135). -/
def State.irq (s : State) : Bool := s.regs.status.done && s.regs.ctrlIe

/-- What a host write of `v` to STATUS leaves: bit 1 clears DONE, bit 3 clears BUSY_WR, nothing else
changes (10_state.md R30). -/
def Status.writeOneToClear (st : Status) (v : Word) : Status :=
  { st with done := st.done && !v.getLsbD 1, busyWr := st.busyWr && !v.getLsbD 3 }

/-- STATUS at acceptance: only BUSY_WR survives (10_state.md R38, R39; 60_exceptions.md R123). -/
def Status.atAcceptance (st : Status) : Status := { Status.reset with busyWr := st.busyWr }

/-- DONE and ERR_CODE as completion writes them (60_exceptions.md R125). -/
def Status.atCompletion (st : Status) (code : ErrCode) : Status :=
  { st with done := true, errCode := code }

end Sys2Proof.Machine
end

