-- ==== Sys2Proof/Machine/Operands.lean ====
section
/-! DEFINITION. The operands of the commands (30_encoding.md R72, R73), the range and overlap predicates
on them (20_memory.md R58, 41_repetition.md R101), and the byte-order helpers of 00_scope.md R11. -/

namespace Sys2Proof.Machine

/-- LARG[0] as an unsigned integer (30_encoding.md R72). -/
def State.operand0 (s : State) : Nat := s.eng.larg0.toNat

/-- LARG[1] as an unsigned integer. -/
def State.operand1 (s : State) : Nat := s.eng.larg1.toNat

/-- LARG[2] as an unsigned integer. -/
def State.operand2 (s : State) : Nat := s.eng.larg2.toNat

/-- HDR_BUILD's scheme id, LARG[2][7:0] (42_frame.md R110). -/
def State.operandScheme (s : State) : Byte := s.eng.larg2.extractLsb' 0 8

/-- HDR_BUILD's must-be-zero bits, LARG[2][31:8], hold 0 (42_frame.md R110). -/
def State.operandMbzZero (s : State) : Bool := s.eng.larg2.extractLsb' 8 24 == 0

/-- `InRange(a, n)`, on integers with no wrap-around (20_memory.md R58). -/
def inRange (c : Config) (a n : Nat) : Bool := decide (a + n ≤ c.dmemSize)

/-- `nbytes(n) = ceil(n / 8)` (20_memory.md R59). -/
def nbytes (n : Nat) : Nat := (n + 7) / 8

/-- `Overlap(a, n, b, p)` (41_repetition.md R101). -/
def overlap (a n b p : Nat) : Bool :=
  decide (0 < n) && decide (0 < p) && decide (a < b + p) && decide (b < a + n)

/-- `be32(b0, b1, b2, b3)` (00_scope.md R11). -/
def be32 (b0 b1 b2 b3 : Byte) : Word := b0 ++ b1 ++ b2 ++ b3

/-- `be16(b0, b1)` (00_scope.md R11). -/
def be16 (b0 b1 : Byte) : BitVec 16 := b0 ++ b1

/-- The four bytes of a word, most significant first: the inverse of `be32`. -/
def bytesOfWord (w : Word) : List Byte :=
  [w.extractLsb' 24 8, w.extractLsb' 16 8, w.extractLsb' 8 8, w.extractLsb' 0 8]

end Sys2Proof.Machine
end

