-- ==== Sys2Proof/Machine/Ops.lean ====
section
/-! DEFINITION. The named operations over DMEM, BLK and the registers, and the block's form of taking
and leaving an exception: `State.complete` with an error code, and acknowledgement
(60_exceptions.md R125, R132, R133). -/

namespace Sys2Proof.Machine

/-! ### DMEM (10_state.md R44) -/

/-- The byte at an address; `none` is "no value". -/
def Memory.read : Memory → Nat → Option Byte
  | [], _ => none
  | (b, v) :: m, a => if a = b then some v else Memory.read m a

/-- `m` with the byte at `a` set. -/
def Memory.write : Memory → Nat → Byte → Memory
  | [], a, v => [(a, v)]
  | (b, w) :: m, a, v =>
    if a < b then (a, v) :: (b, w) :: m
    else if a = b then (a, v) :: m
    else (b, w) :: Memory.write m a v

/-- `MemRead(a, n)` (00_scope.md R12); `none` where one of the bytes has no value. -/
def Memory.readBytes (m : Memory) (a : Nat) : Nat → Option (List Byte)
  | 0 => some []
  | n + 1 =>
    match m.read a with
    | none => none
    | some b => (Memory.readBytes m (a + 1) n).map fun bs => b :: bs

/-- `MemWrite(a, n, bytes)` for the n bytes of the list (00_scope.md R12). -/
def Memory.writeBytes : Memory → Nat → List Byte → Memory
  | m, _, [] => m
  | m, a, b :: bs => Memory.writeBytes (m.write a b) (a + 1) bs

/-- `m` with the bytes `a .. a + n` set to "no value" (70_reset_and_hazards.md R145). -/
def Memory.eraseRange (m : Memory) (a n : Nat) : Memory :=
  m.filter fun c => !(decide (a ≤ c.1) && decide (c.1 < a + n))

/-! ### BLK (10_state.md R40, R41) -/

/-- An element has a value when both its halves have been written. -/
def BlkElem.hasValue (e : BlkElem) : Bool := e.lo.isSome && e.hi.isSome

/-- The encoding of an element that has a value. -/
def BlkElem.bits (e : BlkElem) : F64 := e.hi.getD 0 ++ e.lo.getD 0

/-- The element with the encoding `x`. -/
def BlkElem.ofBits (x : F64) : BlkElem := ⟨some (x.extractLsb' 0 32), some (x.extractLsb' 32 32)⟩

/-- The 64 encodings of elements that all have a value. -/
@[irreducible] def blockOfBlk (b : Vector BlkElem 64) : Block := Vector.ofFn fun k => (b[k]).bits

/-- The 64 values of BLK; `none` where an element has no value (20_memory.md R61). -/
def State.readBlock (s : State) : Option Block :=
  if s.blk.toList.all BlkElem.hasValue then some (blockOfBlk s.blk) else none

/-- The elements that hold the 64 values of `x`. -/
@[irreducible] def blkOfBlock (x : Block) : Vector BlkElem 64 := Vector.ofFn fun k => BlkElem.ofBits x[k]

/-- BLK[k] <- x[k] for every k. -/
def State.writeBlock (s : State) (x : Block) : State := { s with blk := blkOfBlock x }

/-! ### Registers -/

/-- `MemWrite` on the state. -/
def State.writeMem (s : State) (a : Nat) (bs : List Byte) : State :=
  { s with dmem := s.dmem.writeBytes a bs }

/-- reg[CRC_RES] <- w. -/
def State.setCrcRes (s : State) (w : Word) : State := { s with regs := { s.regs with crcRes := w } }

/-- reg[OUT_BITS] <- bits; reg[OUT_BYTES] <- bytes. -/
def State.setOut (s : State) (bits bytes : Word) : State :=
  { s with regs := { s.regs with outBits := bits, outBytes := bytes } }

/-- reg[PAYLOAD_ADDR] <- a. -/
def State.setPayloadAddr (s : State) (a : Word) : State :=
  { s with regs := { s.regs with payloadAddr := a } }

/-- STATUS.FP_NONFINITE <- b. -/
def State.setFpNonfinite (s : State) (b : Bool) : State :=
  { s with regs := { s.regs with status := { s.regs.status with fpNonfinite := b } } }

/-- `n` free values have been taken (log 22). -/
def State.useDraws (s : State) (n : Nat) : State :=
  { s with env := { s.env with draws := s.env.draws + n } }

/-! ### Acceptance, completion, error, acknowledgement (60_exceptions.md R123, R125, R133) -/

/-- The writes of `accept(w)` (60_exceptions.md R123). STATUS.BUSY is ENG.PENDING. -/
def State.latch (s : State) (w : Word) : State :=
  { s with
    regs := { s.regs with cmd := w, errInfo := 0, status := s.regs.status.atAcceptance }
    eng := { pending := true, lcmd := w, larg0 := s.regs.arg0, larg1 := s.regs.arg1,
             larg2 := s.regs.arg2 } }

/-- Acceptance of `w`: the writes of R123, and the number of host steps that may come before the
engine's step is a free value (70_reset_and_hazards.md R153; log 4). -/
def State.accept (s : State) (w : Word) : State :=
  { s.latch w with env := { s.env with delay := Config.engineDelay s.env.draws } }

/-- `complete(code, info)` (60_exceptions.md R125): how every command ends, and all that an error
records. "An error saves nothing and changes no mode or mask" (R132). -/
def State.complete (s : State) (code : ErrCode) (info : Word) : State :=
  { s with
    regs := { s.regs with status := s.regs.status.atCompletion code, errInfo := info }
    eng := { s.eng with pending := false } }

/-- The end of a command that raised nothing: `complete(NONE, 0)`. -/
def succeed (s : State) : Host.Outcome State Fault Refusal := .next (s.complete .none 0)

/-- An error code with its information word, as a check answers it. -/
structure CmdError where
  code : ErrCode
  info : Word
deriving DecidableEq, Repr

/-- `raise Err(code, info)` (60_exceptions.md R125, R128): the block's whole taking of an exception. -/
def raiseErr (e : CmdError) (s : State) : Host.Outcome State Fault Refusal :=
  .next (s.complete e.code e.info)

/-- A host write of `v` to STATUS: acknowledgement is the only return there is, and restores nothing
(60_exceptions.md R133, 10_state.md R30). -/
def State.writeStatus (s : State) (v : Word) : State :=
  { s with regs := { s.regs with status := s.regs.status.writeOneToClear v } }

/-- STATUS.BUSY_WR <- 1: a host write was lost (70_reset_and_hazards.md R148). -/
def State.noteBusyWrite (s : State) : State :=
  { s with regs := { s.regs with status := { s.regs.status with busyWr := true } } }

end Sys2Proof.Machine
end

