-- ==== Sys2Proof/Machine/Frame.lean ====
section
/-! DEFINITION. The frame protocol family: CRC-32, the 16-byte header, CRC32, HDR_BUILD and HDR_PARSE
(42_frame.md R106 to R116). -/

namespace Sys2Proof.Machine

/-! ### CRC-32 (42_frame.md R108) -/

/-- One of the 8 shifts of a byte. -/
def crcShift (c : Word) : Word := if c.getLsbD 0 then (c >>> 1) ^^^ 0xEDB88320#32 else c >>> 1

/-- One byte: xor it in, then 8 shifts. -/
def crcByte (c : Word) (b : Byte) : Word := Nat.repeat crcShift 8 (c ^^^ b.setWidth 32)

/-- CRC32(b[0 .. n-1]) (42_frame.md R108). -/
def crc32 (bs : List Byte) : Word := bs.foldl crcByte 0xFFFFFFFF#32 ^^^ 0xFFFFFFFF#32

/-! ### The header (42_frame.md R106) -/

/-- The fields of the 16 header bytes. -/
structure Header where
  magic : Word
  version : Byte
  scheme : Byte
  rsvd : BitVec 16
  len : Word
  crc : Word
deriving DecidableEq, Repr

/-- The header's 16 bytes, every integer big-endian (42_frame.md R106, 20_memory.md R53). -/
def Header.toBytes (h : Header) : List Byte :=
  bytesOfWord h.magic ++ [h.version, h.scheme, h.rsvd.extractLsb' 8 8, h.rsvd.extractLsb' 0 8] ++
    bytesOfWord h.len ++ bytesOfWord h.crc

/-- The header that 16 bytes hold. -/
def Header.ofBytes (b : List Byte) : Header where
  magic := be32 (b.getD 0 0) (b.getD 1 0) (b.getD 2 0) (b.getD 3 0)
  version := b.getD 4 0
  scheme := b.getD 5 0
  rsvd := be16 (b.getD 6 0) (b.getD 7 0)
  len := be32 (b.getD 8 0) (b.getD 9 0) (b.getD 10 0) (b.getD 11 0)
  crc := be32 (b.getD 12 0) (b.getD 13 0) (b.getD 14 0) (b.getD 15 0)

/-- be32(MAGIC[0], MAGIC[1], MAGIC[2], MAGIC[3]) (10_state.md R37). -/
def magicWord (c : Config) : Word := be32 c.magic[0] c.magic[1] c.magic[2] c.magic[3]

/-- The header HDR_BUILD writes: reserved bytes 0x00, 0x00 (42_frame.md R110). -/
def builtHeader (c : Config) (scheme : Byte) (len crc : Word) : Header :=
  ⟨magicWord c, c.version, scheme, 0, len, crc⟩

/-- The header registers and the three information flags, as HDR_PARSE writes them once it has read the
16 header bytes (42_frame.md R111, R114). -/
def State.recordHeader (s : State) (h : Header) : State :=
  { s with regs := { s.regs with
      hdrMagic := h.magic
      hdrVersion := h.version.setWidth 32
      hdrScheme := h.scheme.setWidth 32
      hdrRsvd := h.rsvd.setWidth 32
      hdrLen := h.len
      hdrCrc := h.crc
      status := { s.regs.status with
        hdrVerMismatch := h.version != s.cfg.version
        hdrSchemeUnsup := h.scheme != 1
        hdrRsvdNz := h.rsvd != 0 } } }

/-! ### The commands -/

/-- CRC32 (42_frame.md R109). -/
def execCrc32 (s : State) : Host.Outcome State Fault Refusal :=
  if !inRange s.cfg s.operand0 s.operand1 then raiseErr ⟨.range, 0⟩ s
  else match s.dmem.readBytes s.operand0 s.operand1 with
    | none => .fault (.dmemNoValue .crc32)
    | some bs => succeed (s.setCrcRes (crc32 bs))

/-- HDR_BUILD's checks, in their order (42_frame.md R110). -/
def hdrBuildCheck (s : State) : Except CmdError Unit :=
  if !s.operandMbzZero then .error ⟨.badArg, 2⟩
  else if s.operandScheme != 1 then .error ⟨.unsupportedScheme, s.operandScheme.setWidth 32⟩
  else if !inRange s.cfg s.operand0 (16 + s.operand1) then .error ⟨.range, 0⟩
  else .ok ()

/-- HDR_BUILD (42_frame.md R110). -/
def execHdrBuild (s : State) : Host.Outcome State Fault Refusal :=
  match hdrBuildCheck s with
  | .error e => raiseErr e s
  | .ok () =>
    match s.dmem.readBytes (s.operand0 + 16) s.operand1 with
    | none => .fault (.dmemNoValue .hdrBuild)
    | some payload =>
      let crc := crc32 payload
      let h := builtHeader s.cfg s.operandScheme s.eng.larg1 crc
      succeed (((s.writeMem s.operand0 h.toBytes).setCrcRes crc).setOut 0
        (BitVec.ofNat 32 (16 + s.operand1)))

/-- HDR_PARSE once the header `h` has been read and recorded (42_frame.md R111): magic, length, CRC, in
this order. -/
def parseFrom (h : Header) (s : State) : Host.Outcome State Fault Refusal :=
  if h.magic != magicWord s.cfg then raiseErr ⟨.invalidMagic, h.magic⟩ s
  else if 16 + h.len.toNat > s.operand1 then raiseErr ⟨.invalidLength, h.len⟩ s
  else match s.dmem.readBytes (s.operand0 + 16) h.len.toNat with
    | none => .fault (.dmemNoValue .hdrParse)
    | some payload =>
      let crc := crc32 payload
      if crc != h.crc then raiseErr ⟨.crcMismatch, crc⟩ (s.setCrcRes crc)
      else succeed (((s.setCrcRes crc).setPayloadAddr (BitVec.ofNat 32 (s.operand0 + 16))).setOut 0
        h.len)

/-- HDR_PARSE (42_frame.md R111). -/
def execHdrParse (s : State) : Host.Outcome State Fault Refusal :=
  if !inRange s.cfg s.operand0 s.operand1 then raiseErr ⟨.range, 0⟩ s
  else if s.operand1 < 16 then raiseErr ⟨.frameTooShort, s.eng.larg1⟩ s
  else match s.dmem.readBytes s.operand0 16 with
    | none => .fault (.dmemNoValue .hdrParse)
    | some bytes => parseFrom (Header.ofBytes bytes) (s.recordHeader (Header.ofBytes bytes))

end Sys2Proof.Machine
end

