-- ==== Sys2Proof/Machine/Repetition.lean ====
section
/-! DEFINITION. Bit streams (20_memory.md R59, R60) and the repetition code family, REP3_ENC and
REP3_DEC (41_repetition.md R98 to R104). -/

namespace Sys2Proof.Machine

/-- Bit `k` of the stream held in `bs`: most significant bit of each byte first (20_memory.md R59). -/
def streamBit (bs : List Byte) (k : Nat) : Bool := (bs.getD (k / 8) 0).getLsbD (7 - k % 8)

/-- One byte of `BitsWrite`: bit 7 - t is stream bit 8j + t, or 0 past the stream's end
(20_memory.md R60). -/
def packByte (n : Nat) (bit : Nat → Bool) (j : Nat) : Byte :=
  (List.range 8).foldl
    (fun byte t => if decide (8 * j + t < n) && bit (8 * j + t) then byte ||| ((1#8) <<< (7 - t)) else byte) 0

/-- The bytes `BitsWrite` writes for the stream bit(0) .. bit(n-1) (20_memory.md R60). -/
def packBits (n : Nat) (bit : Nat → Bool) : List Byte := (List.range (nbytes n)).map (packByte n bit)

/-- `maj(a, b, c)`: at least two of the three bits are 1 (41_repetition.md R99). -/
def majority (a b c : Bool) : Bool := decide (a.toNat + b.toNat + c.toNat ≥ 2)

/-- e[3k] = e[3k+1] = e[3k+2] = d[k] (41_repetition.md R98). -/
def rep3EncodeBit (bs : List Byte) (k : Nat) : Bool := streamBit bs (k / 3)

/-- d[j] = maj(r[3j], r[3j+1], r[3j+2]) (41_repetition.md R99). -/
def rep3DecodeBit (bs : List Byte) (j : Nat) : Bool :=
  majority (streamBit bs (3 * j)) (streamBit bs (3 * j + 1)) (streamBit bs (3 * j + 2))

/-- The ranges of a REP3 command whose checks have passed. -/
structure Rep3Plan where
  src : Nat
  nbIn : Nat
  dst : Nat
  nOut : Nat
deriving DecidableEq, Repr

/-- The destination's byte count, `nb_out`. -/
def Rep3Plan.nbOut (p : Rep3Plan) : Nat := nbytes p.nOut

/-- The range and overlap checks, in their order (41_repetition.md R102, R104). -/
def rep3Check (c : Config) (p : Rep3Plan) : Except CmdError Rep3Plan :=
  if !inRange c p.src p.nbIn then .error ⟨.range, 0⟩
  else if !inRange c p.dst p.nbOut then .error ⟨.range, 2⟩
  else if overlap p.src p.nbIn p.dst p.nbOut then .error ⟨.overlap, 0⟩
  else .ok p

/-- REP3_ENC's ranges and checks (41_repetition.md R102). -/
def rep3EncCheck (s : State) : Except CmdError Rep3Plan :=
  rep3Check s.cfg ⟨s.operand0, nbytes s.operand1, s.operand2, 3 * s.operand1⟩

/-- REP3_DEC's ranges and checks: fewer than 3 bits comes first (41_repetition.md R103, R104). -/
def rep3DecCheck (s : State) : Except CmdError Rep3Plan :=
  if s.operand1 < 3 then .error ⟨.insufficientBits, s.eng.larg1⟩
  else rep3Check s.cfg ⟨s.operand0, nbytes s.operand1, s.operand2, s.operand1 / 3⟩

/-- What REP3_ENC and REP3_DEC share after their checks: read every source byte, write the packed
output, set OUT_BITS and OUT_BYTES, complete. -/
def runRep3 (i : Instr) (check : Except CmdError Rep3Plan) (bit : List Byte → Nat → Bool) (s : State) :
    Host.Outcome State Fault Refusal :=
  match check with
  | .error e => raiseErr e s
  | .ok p =>
    match s.dmem.readBytes p.src p.nbIn with
    | none => .fault (.dmemNoValue i)
    | some bs =>
      succeed ((s.writeMem p.dst (packBits p.nOut (bit bs))).setOut
        (BitVec.ofNat 32 p.nOut) (BitVec.ofNat 32 p.nbOut))

/-- REP3_ENC (41_repetition.md R102). -/
def execRep3Enc (s : State) : Host.Outcome State Fault Refusal :=
  runRep3 .rep3Enc (rep3EncCheck s) rep3EncodeBit s

/-- REP3_DEC (41_repetition.md R104). -/
def execRep3Dec (s : State) : Host.Outcome State Fault Refusal :=
  runRep3 .rep3Dec (rep3DecCheck s) rep3DecodeBit s

end Sys2Proof.Machine
end

