-- ==== Sys2Proof/Machine/Reset.lean ====
section
/-! DEFINITION. Soft reset and the abort of a pending command (70_reset_and_hazards.md R144, R145), and
power-on reset as an event (R143). -/

namespace Sys2Proof.Machine

/-- The cells a pending command would have written (70_reset_and_hazards.md R145). -/
inductive AbortCells where
  | none
  | block
  | dmem (a n : Nat)
deriving DecidableEq, Repr

/-- The destination of a REP3 command whose checks pass. -/
def rep3AbortCells : Except CmdError Rep3Plan → AbortCells
  | .ok p => .dmem p.dst p.nbOut
  | .error _ => .none

/-- The table of 70_reset_and_hazards.md R145, for the latched command of `s`. -/
def abortCells (s : State) : AbortCells :=
  match decode s.eng.lcmd with
  | .error _ => .none
  | .ok .nop => .none
  | .ok .fdct => .block
  | .ok .idct => .block
  | .ok .rep3Enc => rep3AbortCells (rep3EncCheck s)
  | .ok .rep3Dec => rep3AbortCells (rep3DecCheck s)
  | .ok .crc32 => .none
  | .ok .hdrBuild =>
    match hdrBuildCheck s with
    | .ok () => .dmem s.operand0 16
    | .error _ => .none
  | .ok .hdrParse => .none

/-- The cells set to "no value"; an element loses both its halves (log 9, DEDUCED). -/
def State.dropCells (s : State) : AbortCells → State
  | .none => s
  | .block => { s with blk := Vector.replicate 64 BlkElem.noValue }
  | .dmem a n => { s with dmem := s.dmem.eraseRange a n }

/-- Soft reset (70_reset_and_hazards.md R144): the registers and ENG as after power-on, BLK and DMEM kept
but for the cells of a command it aborts (R145). -/
def State.softReset (s : State) : State :=
  { (if s.busy then s.dropCells (abortCells s) else s) with
    regs := Regs.reset
    eng := Engine.reset }

/-- Power-on reset as an event (70_reset_and_hazards.md R143): every component of the block starts again,
and the host's program goes on (log 12). -/
def State.powerCycle (s : State) : State := State.powerOn s.cfg s.env

end Sys2Proof.Machine
end

