-- ==== Sys2Proof/Machine/Binary64.lean ====
section
/-! DEFINITION. IEEE 754 binary64 addition and multiplication, rounded to nearest, ties to even
(40_transform.md R83): decode both operands to exact integers, compute exactly, round once. A finite
binary64 value is an integer multiple of 2^-1074. How infinities and NaNs combine is IEEE 754's, which
R83 takes from general knowledge (log 16, PRESUMED). -/

namespace Sys2Proof.Machine

/-- Bit 63. -/
def fpSign (x : F64) : Bool := x.getLsbD 63

/-- Bits 62:52, the biased exponent. -/
def fpExponent (x : F64) : Nat := (x.extractLsb' 52 11).toNat

/-- Bits 51:0. -/
def fpFraction (x : F64) : Nat := (x.extractLsb' 0 52).toNat

def fpIsNaN (x : F64) : Bool := fpExponent x == 2047 && fpFraction x != 0

def fpIsInf (x : F64) : Bool := fpExponent x == 2047 && fpFraction x == 0

def fpIsFinite (x : F64) : Bool := fpExponent x != 2047

/-- The magnitude of a finite value, in units of 2^-1074: exact, and a subnormal keeps its value. -/
def fpMagnitude (x : F64) : Nat :=
  if fpExponent x = 0 then fpFraction x
  else (2 ^ 52 + fpFraction x) * 2 ^ (fpExponent x - 1)

/-- A finite value in units of 2^-1074. -/
def fpInt (x : F64) : Int := if fpSign x then -(fpMagnitude x : Int) else (fpMagnitude x : Int)

/-- The rational number a finite encoding stands for. -/
def fpValue (x : F64) : ℚ := (fpInt x : ℚ) / 2 ^ 1074

/-- The encoding with this sign and these 63 lower bits. -/
def fpPack (sign : Bool) (lower : Nat) : F64 :=
  BitVec.ofNat 64 ((if sign then 2 ^ 63 else 0) + lower)

/-- The lower 63 bits of an infinity. -/
def fpInfLower : Nat := 2047 * 2 ^ 52

/-- The NaN that stands inside the dataflow for "some NaN". No output carries its bits: the sign and
the fraction of every NaN result are free values (40_transform.md R94; log 6). -/
def fpSomeNaN : F64 := 0x7FF8000000000000#64

/-- `n / 2^sh` rounded to the nearest integer, ties to even. -/
def roundShift (n sh : Nat) : Nat :=
  let q := n / 2 ^ sh
  let r := n % 2 ^ sh
  if 2 * r < 2 ^ sh then q else if 2 ^ sh < 2 * r then q + 1 else q + q % 2

/-- The lower 63 bits of RN(n · 2^-(1074 + sc)): the exponent is the least that leaves at most 53
significant bits, a carry out of the fraction runs on into the exponent field, and what reaches past
the largest finite value is an infinity. -/
def fpRoundLower (n sc : Nat) : Nat :=
  let e := Nat.log2 n - 52 - sc
  let lower := e * 2 ^ 52 + roundShift n (sc + e)
  if lower < fpInfLower then lower else fpInfLower

/-- RN(x + y) (40_transform.md R83). An exact zero sum is -0.0 only where both operands are negative. -/
def fpAdd (x y : F64) : F64 :=
  if fpIsNaN x || fpIsNaN y then fpSomeNaN
  else if fpIsInf x then (if fpIsInf y && fpSign x != fpSign y then fpSomeNaN else x)
  else if fpIsInf y then y
  else
    let z := fpInt x + fpInt y
    if z = 0 then fpPack (fpSign x && fpSign y) 0
    else fpPack (decide (z < 0)) (fpRoundLower z.natAbs 0)

/-- RN(x × y) (40_transform.md R83). -/
def fpMul (x y : F64) : F64 :=
  let sign := fpSign x != fpSign y
  if fpIsNaN x || fpIsNaN y then fpSomeNaN
  else if fpIsInf x || fpIsInf y then
    (if (fpIsFinite x && fpMagnitude x == 0) || (fpIsFinite y && fpMagnitude y == 0) then fpSomeNaN
     else fpPack sign fpInfLower)
  else fpPack sign (fpRoundLower (fpMagnitude x * fpMagnitude y) 1074)

end Sys2Proof.Machine
end

