-- ==== Sys2Proof/Machine/Cosine.lean ====
section
/-! DEFINITION. COSROM (10_state.md R42) and the constants of the transform (40_transform.md R84, R85). -/

namespace Sys2Proof.Machine

/-- c_k of COS_TABLE, c_0 = 1.0 (00_scope.md R5, 40_transform.md R85). -/
def cosConstant (tbl : Vector F64 7) : Nat → F64
  | 0 => 0x3FF0000000000000#64
  | k + 1 => tbl[k]?.getD 0

/-- The angle m with cos(m·π/16) = cos((2i+1)·u·π/16), folded into 0 to 16 (40_transform.md R85). -/
def cosFold (i u : Fin 8) : Nat :=
  let m := ((2 * i.val + 1) * u.val) % 32
  if m > 16 then 32 - m else m

/-- -x: negation changes the sign bit only (40_transform.md R85). -/
def fpNeg (x : F64) : F64 := x ^^^ 0x8000000000000000#64

/-- T[i][u] = sigma(i,u) · c_kappa(i,u) (40_transform.md R85), or the entry itself where COS_TABLE is
given as the 64 entries (R86). -/
def cosEntry (t : CosTable) (i u : Fin 8) : F64 :=
  match t with
  | .constants tbl =>
    let m := cosFold i u
    if m > 8 then fpNeg (cosConstant tbl (16 - m)) else cosConstant tbl m
  | .entries e => e[8 * i.val + u.val]?.getD 0

/-- C(0) = RN(sqrt(1/8)) and C(k) = 0.5 for k > 0 (40_transform.md R84). -/
def normConstant (u : Fin 8) : F64 :=
  if u.val = 0 then 0x3FD6A09E667F3BCD#64 else 0x3FE0000000000000#64

end Sys2Proof.Machine
end

