-- ==== Sys2Proof/Machine/Window.lean ====
section
/-! DEFINITION. The register window: what stands at each offset (10_state.md R19, Table 10-1), and what a
read of it returns (10_state.md R27 to R45; 70_reset_and_hazards.md R149). -/

namespace Sys2Proof.Machine

/-- The registers of Table 10-1 that occupy one word. -/
inductive RegName where
  | id
  | cfg
  | ctrl
  | status
  | cmd
  | errInfo
  | arg0
  | arg1
  | arg2
  | crcRes
  | hdrMagic
  | hdrVersion
  | hdrScheme
  | hdrRsvd
  | hdrLen
  | hdrCrc
  | payloadAddr
  | outBits
  | outBytes
  | frameMagic
  | frameVersion
deriving DecidableEq, Repr

/-- What stands at an aligned offset. -/
inductive Place where
  | reg (r : RegName)
  /-- One half of BLK[k]; `hi` says bits 63:32 (10_state.md R41). -/
  | blk (k : Fin 64) (hi : Bool)
  /-- One half of T[i][u], entry 8i + u (10_state.md R43). -/
  | cosrom (k : Fin 64) (hi : Bool)
  /-- The DMEM word at byte addresses a to a + 3 (10_state.md R45). -/
  | dmem (a : Nat)
  /-- Not listed in Table 10-1 (20_memory.md R52). -/
  | reserved
deriving DecidableEq, Repr

/-- The word registers of Table 10-1 by their offsets. -/
def regAt : Nat → Option RegName
  | 0x000 => some .id
  | 0x004 => some .cfg
  | 0x008 => some .ctrl
  | 0x00C => some .status
  | 0x010 => some .cmd
  | 0x014 => some .errInfo
  | 0x020 => some .arg0
  | 0x024 => some .arg1
  | 0x028 => some .arg2
  | 0x040 => some .crcRes
  | 0x044 => some .hdrMagic
  | 0x048 => some .hdrVersion
  | 0x04C => some .hdrScheme
  | 0x050 => some .hdrRsvd
  | 0x054 => some .hdrLen
  | 0x058 => some .hdrCrc
  | 0x05C => some .payloadAddr
  | 0x060 => some .outBits
  | 0x064 => some .outBytes
  | 0x080 => some .frameMagic
  | 0x084 => some .frameVersion
  | _ => none

/-- The element a BLK or COSROM window offset falls in, `d` bytes from the window's first. -/
def windowIndex (d : Nat) : Fin 64 := ⟨(d / 8) % 64, Nat.mod_lt _ (by decide)⟩

/-- Table 10-1 on the offset as a number. -/
def placeAtNat (c : Config) (off : Nat) : Place :=
  if 0x100000 ≤ off then
    (if off - 0x100000 < c.dmemSize then .dmem (off - 0x100000) else .reserved)
  else if 0x600 ≤ off ∧ off < 0x800 then
    .cosrom (windowIndex (off - 0x600)) (decide ((off - 0x600) % 8 = 4))
  else if 0x400 ≤ off ∧ off < 0x600 then
    .blk (windowIndex (off - 0x400)) (decide ((off - 0x400) % 8 = 4))
  else match regAt off with
    | some r => .reg r
    | none => .reserved

/-- What stands at an aligned offset of the window (10_state.md R19). -/
def placeAt (c : Config) (off : Offset) : Place := placeAtNat c off.toNat

/-- CFG: DMEM_LOG2 in 4:0, REF64 in 8, SCHEME1 in 16 (10_state.md R28). -/
def cfgWord (c : Config) : Word :=
  BitVec.ofNat 32 (c.dmemLog2 % 32) ||| bitAt (decide (c.transformImpl = .ref64)) 8 ||| bitAt true 16

/-- The current value of a word register (Table 10-1). -/
def State.readReg (s : State) : RegName → Word
  | .id => 0x454D0100#32
  | .cfg => cfgWord s.cfg
  | .ctrl => s.ctrlWord
  | .status => s.statusWord
  | .cmd => s.regs.cmd
  | .errInfo => s.regs.errInfo
  | .arg0 => s.regs.arg0
  | .arg1 => s.regs.arg1
  | .arg2 => s.regs.arg2
  | .crcRes => s.regs.crcRes
  | .hdrMagic => s.regs.hdrMagic
  | .hdrVersion => s.regs.hdrVersion
  | .hdrScheme => s.regs.hdrScheme
  | .hdrRsvd => s.regs.hdrRsvd
  | .hdrLen => s.regs.hdrLen
  | .hdrCrc => s.regs.hdrCrc
  | .payloadAddr => s.regs.payloadAddr
  | .outBits => s.regs.outBits
  | .outBytes => s.regs.outBytes
  | .frameMagic => magicWord s.cfg
  | .frameVersion => s.cfg.version.setWidth 32

/-- The result registers, which read exactly only while BUSY = 0 (70_reset_and_hazards.md R149). -/
def RegName.isResult : RegName → Bool
  | .crcRes | .hdrMagic | .hdrVersion | .hdrScheme | .hdrRsvd | .hdrLen | .hdrCrc => true
  | .payloadAddr | .outBits | .outBytes => true
  | .id | .cfg | .ctrl | .status | .cmd | .errInfo | .arg0 | .arg1 | .arg2 => false
  | .frameMagic | .frameVersion => false

/-- One 32-bit half of an encoding (20_memory.md R55). -/
def halfOf (x : F64) (hi : Bool) : Word := if hi then x.extractLsb' 32 32 else x.extractLsb' 0 32

/-- COSROM entry k = 8i + u (10_state.md R43). -/
def cosromEntry (t : CosTable) (k : Fin 64) : F64 :=
  cosEntry t ⟨k.val / 8, by omega⟩ ⟨k.val % 8, by omega⟩

/-- Byte lane `j` of a DMEM word: the byte at `a + j`, or that lane of the free value where the byte has
no value (20_memory.md R54, 70_reset_and_hazards.md R143; log 5). -/
def dmemLane (m : Memory) (free : Word) (a j : Nat) : Byte :=
  (m.read (a + j)).getD (free.extractLsb' (8 * j) 8)

/-- DMEM[a+3], DMEM[a+2], DMEM[a+1], DMEM[a], low byte lane last (20_memory.md R54). -/
def dmemWord (m : Memory) (free : Word) (a : Nat) : Word :=
  be32 (dmemLane m free a 3) (dmemLane m free a 2) (dmemLane m free a 1) (dmemLane m free a 0)

/-- What a read of a place returns, `free` standing for the unspecified value where the spec says there
is one: BLK, DMEM and result registers while BUSY = 1 (70_reset_and_hazards.md R149), cells with no
value (R143; 93_implementation_defined.md U6, U7, U9). -/
def State.readPlace (s : State) (free : Word) : Place → Word
  | .reg r => if s.busy && r.isResult then free else s.readReg r
  | .blk k hi =>
    if s.busy || !(s.blk[k]).hasValue then free else halfOf (s.blk[k]).bits hi
  | .cosrom k hi => halfOf (cosromEntry s.cfg.cosTable k) hi
  | .dmem a => if s.busy then free else dmemWord s.dmem free a
  | .reserved => 0

/-- `HostRead32(off)` (20_memory.md R49): the value returned. -/
def State.readWindow (s : State) (off : Offset) : Word :=
  s.readPlace (Config.freeRead s.env.draws s.busy off) (placeAt s.cfg off)

end Sys2Proof.Machine
end

