-- ==== Sys2Proof/WellFormed.lean ====
section
/-! DEFINITION. What is well formed: a command word (30_encoding.md R71, R74), a command, a host
access (20_memory.md R50), a host statement, a configuration (00_scope.md R5). -/

namespace Sys2Proof

/-- MBZ, bits 31:8 of a command word, must be zero (30_encoding.md R71). -/
def Word.mbzZero (w : Word) : Bool := w.extractLsb' 8 24 == 0

/-- OPC, bits 7:0, is one of the values of Table 30-2 (30_encoding.md R74, R76). -/
def Word.opcodeListed (w : Word) : Bool :=
  [0x00, 0x01, 0x02, 0x10, 0x11, 0x20, 0x21, 0x22].contains (w.extractLsb' 0 8).toNat

/-- "A word selects a command exactly when w[31:8] = 0 and w[7:0] is one of the listed OPC values"
(30_encoding.md R74). -/
def Word.selectsCommand (w : Word) : Bool := Word.mbzZero w && Word.opcodeListed w

/-- A command has no operand field, so every command is well formed (30_encoding.md R72). -/
def Instr.wellFormed : Instr → Bool
  | .nop => true
  | .fdct => true
  | .idct => true
  | .rep3Enc => true
  | .rep3Dec => true
  | .crc32 => true
  | .hdrBuild => true
  | .hdrParse => true

/-- 32 bits wide, at a multiple of 4 (20_memory.md R50). -/
def Access.wellFormed (a : Access) : Bool := a.width == 32 && a.off.toNat % 4 == 0

/-- A statement whose access, if it makes one, gets no bus error. -/
def HostStmt.wellFormed : HostStmt → Bool
  | .access a => a.wellFormed
  | .expect off _ _ => off.toNat % 4 == 0
  | .wait => true
  | .powerOnReset => true

/-- DMEM_SIZE is a power of two from 2^12 to 2^20 (00_scope.md R5, Table 00-1). The other parameters
admit every value here; what Table 00-1 asks of COS_TABLE is `CosTable.Legal` in Safety.lean
(log 24). -/
def Config.legal (c : Config) : Bool := decide (12 ≤ c.dmemLog2) && decide (c.dmemLog2 ≤ 20)

end Sys2Proof
end

