-- ==== Sys2Proof/Machine/Bus.lean ====
section
/-! DEFINITION. The host's steps: one access to the register window (20_memory.md R49 to R52,
70_reset_and_hazards.md R148, R149, R154), or another statement of the host program
(30_encoding.md R78). -/

namespace Sys2Proof.Machine

/-- The bus address of a window offset (20_memory.md R49). -/
def busAddress (c : Config) (off : Offset) : Nat := c.base + off.toNat

/-- The window offset of a bus address, if the address is in the window (20_memory.md R49, R64). -/
def windowOffset (c : Config) (addr : Nat) : Option Offset :=
  if c.base ≤ addr ∧ addr < c.base + 0x200000 then some (BitVec.ofNat 21 (addr - c.base)) else none

/-- `store s` while BUSY = 0; while BUSY = 1 the write is lost and BUSY_WR records it
(70_reset_and_hazards.md R148). -/
def whenIdle (s : State) (store : State → State) : State :=
  if s.busy then s.noteBusyWrite else store s

/-- A CTRL write: bit 1 performs a soft reset whatever bit 0 is, else IE takes bit 0
(10_state.md R29). -/
def State.writeCtrl (s : State) (v : Word) : State :=
  if v.getLsbD 1 then s.softReset else { s with regs := { s.regs with ctrlIe := v.getLsbD 0 } }

/-- A write of one half of BLK[k] (10_state.md R41, 20_memory.md R56). -/
def State.writeHalf (s : State) (k : Fin 64) (hi : Bool) (v : Word) : State :=
  let e := s.blk[k]
  let e' : BlkElem := if hi then { e with hi := some v } else { e with lo := some v }
  { s with blk := s.blk.set k.val e' }

/-- The four bytes of a DMEM word in address order (20_memory.md R54). -/
def laneBytes (v : Word) : List Byte :=
  [v.extractLsb' 0 8, v.extractLsb' 8 8, v.extractLsb' 16 8, v.extractLsb' 24 8]

/-- A write of a word register (Table 10-1): CTRL, STATUS, CMD and the operand registers; every other is
read-only and ignores it (10_state.md R23). -/
def State.writeReg (s : State) (v : Word) : RegName → State
  | .ctrl => s.writeCtrl v
  | .status => s.writeStatus v
  | .cmd => whenIdle s fun s => s.accept v
  | .arg0 => whenIdle s fun s => { s with regs := { s.regs with arg0 := v } }
  | .arg1 => whenIdle s fun s => { s with regs := { s.regs with arg1 := v } }
  | .arg2 => whenIdle s fun s => { s with regs := { s.regs with arg2 := v } }
  | .id | .cfg | .errInfo | .crcRes | .hdrMagic | .hdrVersion | .hdrScheme | .hdrRsvd => s
  | .hdrLen | .hdrCrc | .payloadAddr | .outBits | .outBytes | .frameMagic | .frameVersion => s

/-- A write of `v` at a place (20_memory.md R52, R54, R63; 70_reset_and_hazards.md R148). -/
def State.writePlace (s : State) (v : Word) : Place → State
  | .reg r => s.writeReg v r
  | .blk k hi => whenIdle s fun s => s.writeHalf k hi v
  | .dmem a => whenIdle s fun s => s.writeMem a (laneBytes v)
  | .cosrom _ _ => s
  | .reserved => s

/-- `HostWrite32(off, v)` (20_memory.md R49). -/
def State.writeWindow (s : State) (off : Offset) (v : Word) : State := s.writePlace v (placeAt s.cfg off)

/-- A host read: the block does not change (20_memory.md R63), and the data is on the bus. -/
def State.hostRead (s : State) (off : Offset) : State :=
  { s with env := { s.env with rdata := some (s.readWindow off) } }

/-- A host write, after which the next free value is another one (log 22). -/
def State.hostWrite (s : State) (off : Offset) (v : Word) : State := (s.writeWindow off v).useDraws 1

/-- One host access (20_memory.md R49, R50). -/
def hostAccess (a : Access) (s : State) : Host.Outcome State Fault Refusal :=
  if !a.wellFormed then .fault (.busError a)
  else match a.kind with
    | .read => .next (s.hostRead a.off)
    | .write v => .next (s.hostWrite a.off v)

/-- `R off == v` on the bits of `mask` (30_encoding.md R78). -/
def hostExpect (off : Offset) (mask v : Word) (s : State) : Host.Outcome State Fault Refusal :=
  if !(HostStmt.expect off mask v).wellFormed then .fault (.busError ⟨32, off, .read⟩)
  else if s.readWindow off &&& mask != v &&& mask then .fault (.assertionFailed off (s.readWindow off))
  else .next (s.hostRead off)

/-- The offset of STATUS (Table 10-1). -/
def statusOffset : Offset := 0x00C#21

/-- One turn of `WAIT`: a STATUS read; while it shows BUSY = 1 the statement stays (30_encoding.md R78). -/
def hostWait (s : State) : Host.Outcome State Fault Refusal :=
  let t := s.hostRead statusOffset
  .next { t with env := { t.env with
    todo := if (s.readWindow statusOffset).getLsbD 0 then .wait :: t.env.todo else t.env.todo } }

/-- The state in which the host performs its next statement: the rest of the program remains, and one
host step fewer may come before the engine's (70_reset_and_hazards.md R153; log 4). -/
def State.popTodo (s : State) (rest : List HostStmt) : State :=
  { s with env := { s.env with todo := rest, delay := s.env.delay - 1 } }

/-- One statement of the host program. -/
def hostStmt (h : HostStmt) (s : State) : Host.Outcome State Fault Refusal :=
  match h with
  | .access a => hostAccess a s
  | .expect off mask v => hostExpect off mask v s
  | .wait => hostWait s
  | .powerOnReset => .next (s.powerCycle.useDraws 1)

/-- The host's turn. With nothing left to do the state stays as it is: with BUSY = 0 the block idles, "it
does nothing until the next host access. All state is kept while idle" (60_exceptions.md R142); with
BUSY = 1 the run is stuck, it makes no further progress (70_reset_and_hazards.md R155;
93_implementation_defined.md U21). -/
def hostTurn (s : State) : Host.Outcome State Fault Refusal :=
  match s.env.todo with
  | [] => .next s
  | h :: rest => hostStmt h (s.popTodo rest)

/-- It is the engine's turn: a command is pending, its free number of host steps has passed
(60_exceptions.md R124, 70_reset_and_hazards.md R153), and the program has not ended: one that ended while
BUSY = 1 is stuck (R155; 93_implementation_defined.md U21; log 4). -/
def State.engineTurn (s : State) : Bool :=
  s.eng.pending && s.env.delay == 0 && !s.env.todo.isEmpty

end Sys2Proof.Machine
end

