-- ==== Sys2Proof/Machine/Control.lean ====
section
/-! DEFINITION. The control family: NOP (43_control.md R119). -/

namespace Sys2Proof.Machine

/-- NOP: completion only (43_control.md R119). -/
def execNop (s : State) : Host.Outcome State Fault Refusal := succeed s

end Sys2Proof.Machine
end

