-- ==== Sys2Proof/Machine/Transform.lean ====
section
/-! DEFINITION. The block transform family, FDCT and IDCT (40_transform.md R87 to R97). -/

namespace Sys2Proof.Machine

/-- The element at row `r` and column `c` (00_scope.md R14). -/
def blockAt (x : Block) (r c : Fin 8) : F64 := x[8 * r.val + c.val]'(by omega)

/-- The block whose element at row `r` and column `c` is `g r c` (00_scope.md R14). -/
def blockOf (g : Fin 8 → Fin 8 → F64) : Block :=
  Vector.ofFn fun k => g ⟨k.val / 8, by omega⟩ ⟨k.val % 8, by omega⟩

/-- `s <- +0.0`, then `s <- RN(s + g(i))` for i ascending (40_transform.md R87, R88). -/
def sumAscending (g : Fin 8 → F64) : F64 := (List.finRange 8).foldl (fun s i => fpAdd s (g i)) 0

/-- FDCT1 (40_transform.md R87): F[u] = RN(C(u) × s), s the sum of RN(f[i] × T[i][u]). -/
def fdct1 (t : CosTable) (f : Fin 8 → F64) (u : Fin 8) : F64 :=
  fpMul (normConstant u) (sumAscending fun i => fpMul (f i) (cosEntry t i u))

/-- IDCT1 (40_transform.md R88): f[i] is the sum of RN(RN(C(u) × F[u]) × T[i][u]). -/
def idct1 (t : CosTable) (f : Fin 8 → F64) (i : Fin 8) : F64 :=
  sumAscending fun u => fpMul (fpMul (normConstant u) (f u)) (cosEntry t i u)

/-- FWD64 (40_transform.md R89): FDCT1 along each row, then along each column. -/
@[irreducible] def fwd64 (t : CosTable) (x : Block) : Block :=
  let rows := blockOf fun row v => fdct1 t (fun col => blockAt x row col) v
  blockOf fun u v => fdct1 t (fun row => blockAt rows row v) u

/-- INV64 (40_transform.md R90): IDCT1 along each row of coefficients, then along each column. -/
@[irreducible] def inv64 (t : CosTable) (x : Block) : Block :=
  let rows := blockOf fun u col => idct1 t (fun v => blockAt x u v) col
  blockOf fun row col => idct1 t (fun u => blockAt rows u col) row

/-- Some element is a NaN or an infinity (40_transform.md R94). -/
def anyNonfinite (x : Block) : Bool := x.toList.any fun e => !fpIsFinite e

/-- The NaN whose sign and fraction are free value number `n`. A fraction of 0 would be an infinity, so
the free fraction 0 stands for 1: every NaN is among the values (40_transform.md R94; log 6). -/
def freeNaN (n : Nat) : F64 :=
  let frac := (Config.freeNaNFraction n).toNat
  fpPack (Config.freeNaNSign n) (fpInfLower + if frac = 0 then 1 else frac)

/-- Every NaN of `x` replaced by a NaN of its own whose sign and fraction are free. -/
def settleNaNs (draw : Nat) (x : Block) : Block :=
  Vector.ofFn fun k => if fpIsNaN x[k] then freeNaN (draw + k.val) else x[k]

/-- The result of a transform command (00_scope.md R8, 40_transform.md R94): the REF64 dataflow, or the
open function of ABSTRACT, whose outputs are all unspecified where an input is not finite. -/
def transformResult (c : Config) (draw : Nat) (ref : CosTable → Block → Block)
    (impl : Block → Block) (x : Block) : Block :=
  match c.transformImpl with
  | .ref64 => settleNaNs draw (ref c.cosTable x)
  | .opaqueImpl =>
    if anyNonfinite x then Vector.ofFn fun k => Config.freeElement (draw + k.val) else impl x

/-- What FDCT and IDCT share: read the whole block, write the whole result, set FP_NONFINITE, complete
(40_transform.md R94 to R97). A block with an element that has no value faults (20_memory.md R61). -/
def runTransform (i : Instr) (ref : CosTable → Block → Block) (impl : Block → Block) (s : State) :
    Host.Outcome State Fault Refusal :=
  match s.readBlock with
  | none => .fault (.blkNoValue i)
  | some x =>
    let y := transformResult s.cfg s.env.draws ref impl x
    succeed (((s.writeBlock y).setFpNonfinite (anyNonfinite x || anyNonfinite y)).useDraws 64)

/-- FDCT (40_transform.md R96). -/
def execFdct (s : State) : Host.Outcome State Fault Refusal :=
  runTransform .fdct fwd64 Config.fwdImpl s

/-- IDCT (40_transform.md R97). -/
def execIdct (s : State) : Host.Outcome State Fault Refusal :=
  runTransform .idct inv64 Config.invImpl s

end Sys2Proof.Machine
end

