-- ==== Sys2Proof/Machine/Dispatch.lean ====
section
/-! DEFINITION. The engine's execution of a command, from its rule to its completion
(60_exceptions.md R124): one arm for each command. -/

namespace Sys2Proof.Machine

def exec (i : Instr) (s : State) : Host.Outcome State Fault Refusal :=
  match i with
  | .nop => Sys2Proof.Machine.execNop s
  | .fdct => Sys2Proof.Machine.execFdct s
  | .idct => Sys2Proof.Machine.execIdct s
  | .rep3Enc => Sys2Proof.Machine.execRep3Enc s
  | .rep3Dec => Sys2Proof.Machine.execRep3Dec s
  | .crc32 => Sys2Proof.Machine.execCrc32 s
  | .hdrBuild => Sys2Proof.Machine.execHdrBuild s
  | .hdrParse => Sys2Proof.Machine.execHdrParse s

end Sys2Proof.Machine
end

