-- ==== Sys2Proof/Machine/HostProgram.lean ====
section
/-! DEFINITION. The pseudo-instructions of a host program and their exact expansions (30_encoding.md
R79). -/

namespace Sys2Proof.Machine

/-- `R off == v`. -/
def hostCheck (off : Nat) (v : Word) : HostStmt := .expect (BitVec.ofNat 21 off) (BitVec.allOnes 32) v

/-- `W off, v`. -/
def hostWriteAt (off : Nat) (v : Word) : HostStmt := .write (BitVec.ofNat 21 off) v

/-- `ISSUE MNEM`. -/
def issueCmd (i : Instr) : List HostStmt := [hostWriteAt 0x010 (encode i)]

/-- `W` of the operands given to `RUN`, from ARG0 on. -/
def writeArgs (args : List Word) : List HostStmt :=
  (List.zip [0x020, 0x024, 0x028] args).map fun p => hostWriteAt p.1 p.2

/-- `RUN MNEM a0, a1, a2`; operands not given are not written. -/
def runCmd (i : Instr) (args : List Word) : List HostStmt := writeArgs args ++ issueCmd i ++ [.wait]

/-- `ACK`: clears DONE and BUSY_WR. -/
def ackCmd : List HostStmt := [hostWriteAt 0x00C 0x0000000A]

/-- `SRST`. -/
def srstCmd : List HostStmt := [hostWriteAt 0x008 0x00000002]

/-- `IEN`. -/
def ienCmd : List HostStmt := [hostWriteAt 0x008 0x00000001]

/-- `WBLK k, d`, with `d` the binary64 encoding. -/
def wblk (k : Nat) (d : F64) : List HostStmt :=
  [hostWriteAt (0x400 + 8 * k) (d.extractLsb' 0 32), hostWriteAt (0x404 + 8 * k) (d.extractLsb' 32 32)]

/-- `RBLK k == d`. -/
def rblk (k : Nat) (d : F64) : List HostStmt :=
  [hostCheck (0x400 + 8 * k) (d.extractLsb' 0 32), hostCheck (0x404 + 8 * k) (d.extractLsb' 32 32)]

/-- `WBLK k0..k1, d`, ascending. -/
def wblkRange (k0 k1 : Nat) (d : F64) : List HostStmt :=
  ((List.range (k1 + 1 - k0)).map fun j => wblk (k0 + j) d).flatten

/-- `RBLK k0..k1 == d`, ascending. -/
def rblkRange (k0 k1 : Nat) (d : F64) : List HostStmt :=
  ((List.range (k1 + 1 - k0)).map fun j => rblk (k0 + j) d).flatten

/-- Bytes `4j` to `4j + 3` of `bs` as a DMEM window word, bytes past the end 0x00. -/
def laneWord (bs : List Byte) (j : Nat) : Word :=
  be32 (bs.getD (4 * j + 3) 0) (bs.getD (4 * j + 2) 0) (bs.getD (4 * j + 1) 0) (bs.getD (4 * j) 0)

/-- The lanes of word `j` that hold one of `n` bytes. -/
def laneMask (n j : Nat) : Word :=
  be32 (if 4 * j + 3 < n then 0xFF else 0) (if 4 * j + 2 < n then 0xFF else 0)
    (if 4 * j + 1 < n then 0xFF else 0) (if 4 * j < n then 0xFF else 0)

/-- `WMEM a, b0 .. b(n-1)`: whole words, 0x00 after the last byte. -/
def wmem (a : Nat) (bs : List Byte) : List HostStmt :=
  (List.range ((bs.length + 3) / 4)).map fun j => hostWriteAt (0x100000 + a + 4 * j) (laneWord bs j)

/-- `RMEM a == b0 .. b(n-1)`: bytes past the end are not compared. -/
def rmem (a : Nat) (bs : List Byte) : List HostStmt :=
  (List.range ((bs.length + 3) / 4)).map fun j =>
    .expect (BitVec.ofNat 21 (0x100000 + a + 4 * j)) (laneMask bs.length j) (laneWord bs j)

end Sys2Proof.Machine
end

