-- ==== Sys2Proof/Machine/Step.lean ====
section
/-! DEFINITION. One step of the two agents (10_state.md R17): the engine's, when it is its turn
(60_exceptions.md R124), else the host's. -/

namespace Sys2Proof.Machine

/-- The engine's step: decode LCMD and run the command to its completion; an ILLEGAL word completes with
Err(ILLEGAL_CMD, w) (30_encoding.md R75, 60_exceptions.md R124). -/
def engineStep (s : State) : Host.Outcome State Fault Refusal :=
  match decode s.eng.lcmd with
  | .ok i => exec i s
  | .error _ => raiseErr ⟨.illegalCmd, s.eng.lcmd⟩ s

/-- One step of the machine. -/
def step (s : State) : Host.Outcome State Fault Refusal :=
  if s.engineTurn then engineStep s else hostTurn s

/-- `s` with a command accepted (60_exceptions.md R123) and the engine's step due at once, so that the
very next step runs it. The block fetches nothing: this stands for the CMD write of a program that then
waits, since a program that ended while BUSY = 1 is stuck (log 3, log 4). -/
def State.withFetchWord (s : State) (nbits w : Nat) : State :=
  { s.latch (tableWord nbits w) with env := { s.env with todo := .wait :: s.env.todo, delay := 0 } }

end Sys2Proof.Machine
end

