-- ==== Sys2Proof/Safety.lean ====
section
/-! DEFINITION. What counts as a safe state and a final run, and what the spec says of the transforms over
the real numbers, in the terms claims use. -/

namespace Sys2Proof

open Sys2Proof.Machine

/-! ### Runs (70_reset_and_hazards.md R155) -/

/-- `k` steps lead from `s` to `t`, with no fault and no refusal. -/
def Reaches (k : Nat) (s t : State) : Prop := Sys2Proof.core.run k s = .next t

/-- The host program has performed its last access and BUSY = 0 (R155). -/
def Ended (s : State) : Prop := s.env.todo = [] ∧ s.busy = false

/-- The host program has ended while BUSY = 1: the run is stuck and never final (R155;
93_implementation_defined.md U21; log 4). -/
def EndedBusy (s : State) : Prop := s.env.todo = [] ∧ s.busy = true

/-- A run that may be called final: it ends, it met no fault (a bus error, a command that read a cell
with no value), and its program did not end while BUSY = 1 (R155). -/
def FinalRun (k : Nat) (s t : State) : Prop :=
  Reaches k s t ∧ Ended t ∧ ∀ j u, j ≤ k → Reaches j s u → ¬ EndedBusy u

/-! ### The machine's invariant -/

/-- What holds of every state that a legal instance can reach. -/
structure Machine.State.Inv (s : State) : Prop where
  /-- DMEM_SIZE is legal (00_scope.md R5). -/
  cfgLegal : s.cfg.legal = true
  /-- DMEM is in canonical form. -/
  dmemWf : s.dmem.wf
  /-- DMEM has the addresses 0 to DMEM_SIZE - 1 only (10_state.md R44). -/
  dmemInside : ∀ cell ∈ s.dmem, cell.1 < s.cfg.dmemSize
  /-- The CMD read-back is the latched word (60_exceptions.md R123). -/
  cmdLatched : s.regs.cmd = s.eng.lcmd
  /-- While a command is pending, LARG[i] = ARGi (10_state.md R46). -/
  operandsHeld : s.eng.pending = true →
    s.eng.larg0 = s.regs.arg0 ∧ s.eng.larg1 = s.regs.arg1 ∧ s.eng.larg2 = s.regs.arg2
  /-- While a command is pending, what acceptance cleared stays clear (60_exceptions.md R123). -/
  pendingClear : s.eng.pending = true →
    s.regs.status = { Status.reset with busyWr := s.regs.status.busyWr } ∧ s.regs.errInfo = 0
  /-- ERR_INFO is 0 when ERR_CODE = 0 (10_state.md R32). -/
  infoZero : s.regs.status.errCode = .none → s.regs.errInfo = 0
  /-- HDR_VERSION[31:8], HDR_SCHEME[31:8] and HDR_RSVD[31:16] are 0 (10_state.md R34). -/
  hdrFields : s.regs.hdrVersion.toNat < 2 ^ 8 ∧ s.regs.hdrScheme.toNat < 2 ^ 8 ∧
    s.regs.hdrRsvd.toNat < 2 ^ 16
  /-- PAYLOAD_ADDR and OUT_BYTES are never past DMEM (42_frame.md R110, R111). -/
  payloadInside : s.regs.payloadAddr.toNat ≤ s.cfg.dmemSize
  outBytesInside : s.regs.outBytes.toNat ≤ s.cfg.dmemSize
  /-- "n_out <= 8·DMEM_SIZE <= 2^23 fits OUT_BITS" (41_repetition.md R102). -/
  outBitsInside : s.regs.outBits.toNat ≤ 8 * s.cfg.dmemSize

/-! ### The transforms over the real numbers (40_transform.md R80, R81, R91) -/

/-- `C(0) = sqrt(1/8)`, `C(k>0) = sqrt(2/8)` (R80). -/
def IsNormalisation (C : Fin 8 → ℝ) : Prop :=
  C 0 = Real.sqrt (1 / 8) ∧ ∀ k : Fin 8, k ≠ 0 → C k = Real.sqrt (2 / 8)

/-- `X` is the forward transform of `x` over the reals (R80). -/
def IsForwardTransform (x X : Fin 8 → Fin 8 → ℝ) : Prop :=
  ∃ C, IsNormalisation C ∧ ∀ u v, X u v = C u * C v * ∑ row, ∑ col, x row col *
    Real.cos ((2 * (row.val : ℝ) + 1) * u.val * Real.pi / 16) *
    Real.cos ((2 * (col.val : ℝ) + 1) * v.val * Real.pi / 16)

/-- `x` is the inverse transform of `X` over the reals (R81). -/
def IsInverseTransform (X x : Fin 8 → Fin 8 → ℝ) : Prop :=
  ∃ C, IsNormalisation C ∧ ∀ row col, x row col = ∑ u, ∑ v, C u * C v * X u v *
    Real.cos ((2 * (row.val : ℝ) + 1) * u.val * Real.pi / 16) *
    Real.cos ((2 * (col.val : ℝ) + 1) * v.val * Real.pi / 16)

/-- The spacing of binary64 values at a finite `x`, as a rational number. -/
def fpUlp (x : F64) : ℚ := 2 ^ (fpExponent x - 1) / 2 ^ 1074

/-- What Table 00-1 asks of COS_TABLE: each constant within 1 ulp of cos(k·π/16) (00_scope.md R5). For
the 64 entries it asks the same of T[i][u] and its own angle (log 24, DEDUCED). -/
def CosTable.Legal : CosTable → Prop
  | .constants tbl => ∀ k : Fin 7, fpIsFinite tbl[k] = true ∧
      |((fpValue tbl[k] : ℚ) : ℝ) - Real.cos ((k.val + 1) * Real.pi / 16)| ≤ (fpUlp tbl[k] : ℚ)
  | .entries tbl => ∀ i u : Fin 8, fpIsFinite (cosEntry (.entries tbl) i u) = true ∧
      |((fpValue (cosEntry (.entries tbl) i u) : ℚ) : ℝ) -
        Real.cos ((2 * (i.val : ℝ) + 1) * u.val * Real.pi / 16)| ≤
        (fpUlp (cosEntry (.entries tbl) i u) : ℚ)

/-- The accuracy property (40_transform.md R91) of a pair of block functions, with EPS = 1e-6. -/
def AccurateRoundTrip (fwd inv : Block → Block) : Prop :=
  ∀ x : Block, (∀ k : Fin 64, fpIsFinite x[k] = true ∧ -128 ≤ fpValue x[k] ∧ fpValue x[k] ≤ 127) →
    ∀ k : Fin 64, fpIsFinite (inv (fwd x))[k] = true ∧
      |fpValue (inv (fwd x))[k] - fpValue x[k]| ≤ 1 / 10 ^ 6

/-- The only thing a claim may assume of the ABSTRACT functions (00_scope.md R8). -/
def AbstractAssumption : Prop := AccurateRoundTrip Config.fwdImpl Config.invImpl

end Sys2Proof
end

