-- ==== Sys2Proof/Certificates/Slice0/Obligations.lean ====
section
/-! DEFINITION. The statements for the provers, and the words they are written in. -/

open Sys2Proof Sys2Proof.Machine

namespace Sys2Proof.Claim

/-! ### The words of the statements -/

/-- `s` at the end of a command: `complete(code, info)` of 60_exceptions.md R125, spelled out. -/
def finished (s : State) (code : ErrCode) (info : Word) : State :=
  { s with
    regs := { s.regs with
      status := { s.regs.status with done := true, errCode := code }, errInfo := info }
    eng := { s.eng with pending := false } }

/-- It is the engine's turn: a command is pending, no host step comes first, and the host program has not
ended (one that ended while BUSY = 1 is stuck: log 4). -/
def EngineNext (s : State) : Prop :=
  s.eng.pending = true ∧ s.env.delay = 0 ∧ s.env.todo ≠ []

/-- It is the host's turn, with the statement `h` and then `rest` to perform. -/
def HostNext (s : State) (h : HostStmt) (rest : List HostStmt) : Prop :=
  s.env.todo = h :: rest ∧ (s.eng.pending = true → s.env.delay ≠ 0)

/-- `s` after a host step that changed nothing of the block: the model's own bookkeeping (the rest of the
program, the schedule, the data read, the draw index) is that of `t`. -/
def sameBlock (s t : State) : Prop := t = { s with env := t.env }

/-- The range a .. a + n lies in DMEM (20_memory.md R58). -/
def InRange (s : State) (a n : Nat) : Prop := a + n ≤ s.cfg.dmemSize

/-- Every byte of the range has a value. -/
def HasBytes (m : Memory) (a n : Nat) : Prop := ∀ k, k < n → ∃ v, m.read (a + k) = some v

/-- The range holds exactly the bytes `bs`. -/
def Holds (m : Memory) (a : Nat) (bs : List Byte) : Prop := ∀ k, k < bs.length → m.read (a + k) = bs[k]?

/-- Every byte outside the range reads as before. -/
def SameOutside (m m' : Memory) (a n : Nat) : Prop :=
  ∀ x, x < a ∨ a + n ≤ x → m'.read x = m.read x

/-- Bit `k` of the stream at `a` is `b`: BitRead of 20_memory.md R59. -/
def BitIs (m : Memory) (a k : Nat) (b : Bool) : Prop :=
  ∃ v, m.read (a + k / 8) = some v ∧ v.getLsbD (7 - k % 8) = b

/-- ceil(n / 8). -/
def bytesFor (n : Nat) : Nat := (n + 7) / 8

/-- The two ranges share a byte (41_repetition.md R101). -/
def Overlaps (a n b p : Nat) : Prop := 0 < n ∧ 0 < p ∧ a < b + p ∧ b < a + n

/-- LARG[0], LARG[1], LARG[2] as integers. -/
def op0 (s : State) : Nat := s.eng.larg0.toNat
def op1 (s : State) : Nat := s.eng.larg1.toNat
def op2 (s : State) : Nat := s.eng.larg2.toNat

/-- Every check of REP3_ENC passes (41_repetition.md R102). -/
def EncChecksPass (s : State) : Prop :=
  InRange s (op0 s) (bytesFor (op1 s)) ∧ InRange s (op2 s) (bytesFor (3 * op1 s)) ∧
    ¬ Overlaps (op0 s) (bytesFor (op1 s)) (op2 s) (bytesFor (3 * op1 s))

/-- Every check of REP3_DEC passes (41_repetition.md R104). -/
def DecChecksPass (s : State) : Prop :=
  3 ≤ op1 s ∧ InRange s (op0 s) (bytesFor (op1 s)) ∧ InRange s (op2 s) (bytesFor (op1 s / 3)) ∧
    ¬ Overlaps (op0 s) (bytesFor (op1 s)) (op2 s) (bytesFor (op1 s / 3))

/-- Every check of HDR_BUILD passes (42_frame.md R110). -/
def BuildChecksPass (s : State) : Prop :=
  s.eng.larg2 = 1 ∧ InRange s (op0 s) (16 + op1 s)

/-- The element holds the encoding `x`. -/
def ElemIs (e : BlkElem) (x : F64) : Prop :=
  e = ⟨some (x.extractLsb' 0 32), some (x.extractLsb' 32 32)⟩

/-- BLK holds the 64 values of `x`. -/
def BlkIs (s : State) (x : Block) : Prop := ∀ k : Fin 64, ElemIs s.blk[k] x[k]

/-- `s` after a transform command that left the elements `b` and the flag `f`. -/
def transformed (s : State) (b : Vector BlkElem 64) (f : Bool) : State :=
  { s with
    blk := b
    regs := { s.regs with
      status := { s.regs.status with done := true, errCode := .none, fpNonfinite := f }
      errInfo := 0 }
    eng := { s.eng with pending := false }
    env := { s.env with draws := s.env.draws + 64 } }

/-- What a transform command `i` does, `ref` its REF64 dataflow and `impl` its ABSTRACT function: it
completes, every output is the dataflow's value, or some NaN where that is a NaN (40_transform.md R94), or
the open function's value where every input is finite. -/
def TransformLaw (i : Instr) (ref : CosTable → Block → Block) (impl : Block → Block) : Prop :=
  ∀ s x, BlkIs s x → ∃ t y, exec i s = .next t ∧ BlkIs t y ∧
    (s.cfg.transformImpl = .ref64 → ∀ k : Fin 64,
      (fpIsNaN (ref s.cfg.cosTable x)[k] = false → y[k] = (ref s.cfg.cosTable x)[k]) ∧
      (fpIsNaN (ref s.cfg.cosTable x)[k] = true → fpIsNaN y[k] = true)) ∧
    (s.cfg.transformImpl = .opaqueImpl → (∀ k : Fin 64, fpIsFinite x[k] = true) → y = impl x) ∧
    (t.regs.status.fpNonfinite = true ↔
      ∃ k : Fin 64, fpIsFinite x[k] = false ∨ fpIsFinite y[k] = false) ∧
    t = transformed s t.blk t.regs.status.fpNonfinite

/-- `s <- +0.0; s <- RN(s + g(i))` for i = 0 to 7, spelled out (40_transform.md R87, R88). -/
def sum8 (g : Fin 8 → F64) : F64 :=
  fpAdd (fpAdd (fpAdd (fpAdd (fpAdd (fpAdd (fpAdd (fpAdd 0#64 (g 0)) (g 1)) (g 2)) (g 3)) (g 4))
    (g 5)) (g 6)) (g 7)

/-- The offsets of Table 10-1 (10_state.md R19). -/
def Listed (c : Config) (off : Nat) : Prop :=
  off ∈ [0x000, 0x004, 0x008, 0x00C, 0x010, 0x014, 0x020, 0x024, 0x028, 0x040, 0x044, 0x048, 0x04C,
    0x050, 0x054, 0x058, 0x05C, 0x060, 0x064, 0x080, 0x084] ∨
  (0x400 ≤ off ∧ off < 0x800) ∨ (0x100000 ≤ off ∧ off < 0x100000 + c.dmemSize)

/-- The offsets whose writes are lost while BUSY = 1 (70_reset_and_hazards.md R148). -/
def LostWhileBusy (c : Config) (off : Nat) : Prop :=
  off ∈ [0x010, 0x020, 0x024, 0x028] ∨ (0x400 ≤ off ∧ off < 0x600) ∨
  (0x100000 ≤ off ∧ off < 0x100000 + c.dmemSize)

/-- A read answered `v`, and the block is as it was. -/
def ReadGives (s : State) (rest : List HostStmt) (v : Word) : Prop :=
  step s = .next { s with env := { s.env with
    todo := rest, delay := s.env.delay - 1, rdata := some v } }

/-- A write left the block as `t` is, and the model's own bookkeeping besides. -/
def WriteGives (s : State) (rest : List HostStmt) (t : State) : Prop :=
  step s = .next { t with env := { t.env with
    todo := rest, delay := s.env.delay - 1, draws := s.env.draws + 1 } }

/-- What a write of `v` to STATUS leaves of it (10_state.md R30). -/
def acknowledged (s : State) (v : Word) : State :=
  { s with regs := { s.regs with status := { s.regs.status with
    done := s.regs.status.done && !v.getLsbD 1
    busyWr := s.regs.status.busyWr && !v.getLsbD 3 } } }

/-- `s` with STATUS.BUSY_WR set. -/
def lostWrite (s : State) : State :=
  { s with regs := { s.regs with status := { s.regs.status with busyWr := true } } }

/-- `s` after the writes of a successful REP3 command with `n` output bits, DMEM as in `m`. -/
def repDone (s : State) (m : Memory) (n : Nat) : State :=
  { s with
    dmem := m
    regs := { s.regs with
      outBits := BitVec.ofNat 32 n, outBytes := BitVec.ofNat 32 (bytesFor n), errInfo := 0
      status := { s.regs.status with done := true, errCode := .none } }
    eng := { s.eng with pending := false } }

/-- The registers and flags HDR_PARSE writes once it has read the 16 header bytes `h`
(42_frame.md R111, R114). -/
def headerRead (s : State) (h : List Byte) : State :=
  { s with regs := { s.regs with
      hdrMagic := h.getD 0 0 ++ h.getD 1 0 ++ h.getD 2 0 ++ h.getD 3 0
      hdrVersion := (h.getD 4 0).setWidth 32
      hdrScheme := (h.getD 5 0).setWidth 32
      hdrRsvd := (h.getD 6 0 ++ h.getD 7 0 : BitVec 16).setWidth 32
      hdrLen := h.getD 8 0 ++ h.getD 9 0 ++ h.getD 10 0 ++ h.getD 11 0
      hdrCrc := h.getD 12 0 ++ h.getD 13 0 ++ h.getD 14 0 ++ h.getD 15 0
      status := { s.regs.status with
        hdrVerMismatch := decide (h.getD 4 0 ≠ s.cfg.version)
        hdrSchemeUnsup := decide (h.getD 5 0 ≠ 1)
        hdrRsvdNz := decide (h.getD 6 0 ≠ 0 ∨ h.getD 7 0 ≠ 0) } } }

/-- The first four of the header bytes `h` are MAGIC. -/
def MagicMatches (s : State) (h : List Byte) : Prop :=
  h.getD 0 0 = s.cfg.magic[0] ∧ h.getD 1 0 = s.cfg.magic[1] ∧ h.getD 2 0 = s.cfg.magic[2] ∧
    h.getD 3 0 = s.cfg.magic[3]

/-- The 16 header bytes of a frame with payload length `L` and CRC `crc` (42_frame.md R106). -/
def headerBytes (c : Config) (L crc : Word) : List Byte :=
  [c.magic[0], c.magic[1], c.magic[2], c.magic[3], c.version, 1, 0, 0,
   L.extractLsb' 24 8, L.extractLsb' 16 8, L.extractLsb' 8 8, L.extractLsb' 0 8,
   crc.extractLsb' 24 8, crc.extractLsb' 16 8, crc.extractLsb' 8 8, crc.extractLsb' 0 8]

/-- `s` after a successful HDR_BUILD with payload CRC `crc`, DMEM as in `m` (42_frame.md R110). -/
def buildDone (s : State) (m : Memory) (crc : Word) : State :=
  { s with
    dmem := m
    regs := { s.regs with
      crcRes := crc, outBits := 0, outBytes := BitVec.ofNat 32 (16 + op1 s), errInfo := 0
      status := { s.regs.status with done := true, errCode := .none } }
    eng := { s.eng with pending := false } }

/-- `s` after a successful HDR_PARSE of the header `h` with payload CRC `crc` (42_frame.md R111). -/
def parseDone (s : State) (h : List Byte) (crc : Word) : State :=
  finished { headerRead s h with regs := { (headerRead s h).regs with
    crcRes := crc, payloadAddr := BitVec.ofNat 32 (op0 s + 16), outBits := 0
    outBytes := (headerRead s h).regs.hdrLen } } .none 0

/-- The error codes a command may raise (60_exceptions.md R127, R130). -/
def mayRaise : Instr → List ErrCode
  | .nop => []
  | .fdct => []
  | .idct => []
  | .rep3Enc => [.range, .overlap]
  | .rep3Dec => [.insufficientBits, .range, .overlap]
  | .crc32 => [.range]
  | .hdrBuild => [.badArg, .unsupportedScheme, .range]
  | .hdrParse => [.range, .frameTooShort, .invalidMagic, .invalidLength, .crcMismatch]

/-- The result registers but for those HDR_PARSE writes before its last checks (60_exceptions.md R126). -/
def sameOutputs (s t : State) : Prop :=
  t.regs.payloadAddr = s.regs.payloadAddr ∧ t.regs.outBits = s.regs.outBits ∧
    t.regs.outBytes = s.regs.outBytes

/-- The header registers, the information flags and CRC_RES. -/
def sameHeader (s t : State) : Prop :=
  t.regs.hdrMagic = s.regs.hdrMagic ∧ t.regs.hdrVersion = s.regs.hdrVersion ∧
  t.regs.hdrScheme = s.regs.hdrScheme ∧ t.regs.hdrRsvd = s.regs.hdrRsvd ∧
  t.regs.hdrLen = s.regs.hdrLen ∧ t.regs.hdrCrc = s.regs.hdrCrc ∧ t.regs.crcRes = s.regs.crcRes ∧
  t.regs.status.hdrVerMismatch = s.regs.status.hdrVerMismatch ∧
  t.regs.status.hdrSchemeUnsup = s.regs.status.hdrSchemeUnsup ∧
  t.regs.status.hdrRsvdNz = s.regs.status.hdrRsvdNz

/-- A statement of a host program that neither aborts a command nor ends the run. -/
def Harmless : HostStmt → Prop
  | .access a => a.wellFormed = true ∧ ∀ v, a.kind = .write v → a.off.toNat = 0x008 → v.getLsbD 1 = false
  | .expect _ _ _ => False
  | .wait => True
  | .powerOnReset => False

/-- The rational distance of `x` from `q`. -/
def distance (x : F64) (q : ℚ) : ℚ := |fpValue x - q|

/-- `r` is `q` rounded to the nearest finite binary64 value, ties to even: no finite value is nearer, and
where another value is as near, the last bit of `r` is 0. -/
def RoundsTo (r : F64) (q : ℚ) : Prop :=
  ∀ z : F64, fpIsFinite z = true → distance r q ≤ distance z q ∧
    (distance z q = distance r q → fpValue z ≠ fpValue r → r.getLsbD 0 = false)

end Sys2Proof.Claim

open Sys2Proof.Claim

/-! ### Encoding -/

/-- 30_encoding.md R74: the words of Table 30-2 decode to their commands. -/
def Obligations.TableWordsDecodeToTheirCommands : Prop :=
  decode 0x00000000#32 = .ok .nop ∧ decode 0x00000001#32 = .ok .fdct ∧
  decode 0x00000002#32 = .ok .idct ∧ decode 0x00000010#32 = .ok .rep3Enc ∧
  decode 0x00000011#32 = .ok .rep3Dec ∧ decode 0x00000020#32 = .ok .crc32 ∧
  decode 0x00000021#32 = .ok .hdrBuild ∧ decode 0x00000022#32 = .ok .hdrParse

/-- 30_encoding.md R74: a word selects a command exactly when MBZ is 0 and OPC is listed, and the command
it selects is the one whose word Table 30-2 gives: decode and encode agree on all 2^32 words. -/
def Obligations.DecodeAndEncodeAgreeOnEveryWord : Prop :=
  (∀ w : Word,
    (∀ i, decode w = .ok i ↔ w = encode i) ∧
    ((∃ i, decode w = .ok i) ↔ w.extractLsb' 8 24 = 0 ∧
      (w.extractLsb' 0 8).toNat ∈ [0x00, 0x01, 0x02, 0x10, 0x11, 0x20, 0x21, 0x22])) ∧
  encode .nop = 0x00000000#32 ∧ encode .fdct = 0x00000001#32 ∧ encode .idct = 0x00000002#32 ∧
  encode .rep3Enc = 0x00000010#32 ∧ encode .rep3Dec = 0x00000011#32 ∧
  encode .crc32 = 0x00000020#32 ∧ encode .hdrBuild = 0x00000021#32 ∧
  encode .hdrParse = 0x00000022#32

/-! ### The step -/

/-- At the engine's turn the step is `exec` of the decoded command; at the host's turn it is the next
statement of the host program, with one host step fewer left before the engine's (log 4). -/
def Obligations.StepRunsDecodedCommand : Prop :=
  (∀ s i, EngineNext s → decode s.eng.lcmd = .ok i → step s = exec i s) ∧
  (∀ s h rest, HostNext s h rest → step s =
    hostStmt h { s with env := { s.env with todo := rest, delay := s.env.delay - 1 } })

/-- 30_encoding.md R75: the engine decodes the latched word at its step; an ILLEGAL word completes with
ILLEGAL_CMD and changes nothing else. -/
def Obligations.EngineDecodesLatchedWord : Prop :=
  ∀ s, EngineNext s →
    (s.eng.lcmd.extractLsb' 8 24 ≠ 0 ∨
      (s.eng.lcmd.extractLsb' 0 8).toNat ∉ [0x00, 0x01, 0x02, 0x10, 0x11, 0x20, 0x21, 0x22] →
      step s = .next (finished s .illegalCmd s.eng.lcmd)) ∧
    (s.eng.lcmd = 0x00#32 → step s = exec .nop s) ∧ (s.eng.lcmd = 0x01#32 → step s = exec .fdct s) ∧
    (s.eng.lcmd = 0x02#32 → step s = exec .idct s) ∧
    (s.eng.lcmd = 0x10#32 → step s = exec .rep3Enc s) ∧
    (s.eng.lcmd = 0x11#32 → step s = exec .rep3Dec s) ∧
    (s.eng.lcmd = 0x20#32 → step s = exec .crc32 s) ∧
    (s.eng.lcmd = 0x21#32 → step s = exec .hdrBuild s) ∧
    (s.eng.lcmd = 0x22#32 → step s = exec .hdrParse s)

/-- 60_exceptions.md R123: a CMD write while BUSY = 0 is accepted, whatever the word; while BUSY = 1 it is
not. How many host steps may follow (`d`) is open (log 4). -/
def Obligations.CmdWriteIsAcceptedWhileIdle : Prop :=
  ∀ s w rest, HostNext s (.write 0x010#21 w) rest →
    (s.eng.pending = false → ∃ d n, step s = .next { s with
      regs := { s.regs with
        cmd := w
        errInfo := 0
        status := { done := false, busyWr := s.regs.status.busyWr, fpNonfinite := false,
                    hdrVerMismatch := false, hdrSchemeUnsup := false, hdrRsvdNz := false,
                    errCode := .none } }
      eng := { pending := true, lcmd := w, larg0 := s.regs.arg0, larg1 := s.regs.arg1,
               larg2 := s.regs.arg2 }
      env := { s.env with todo := rest, delay := d, draws := n } }) ∧
    (s.eng.pending = true → WriteGives s rest (lostWrite s))

/-- 10_state.md R20, section 3: the operand registers. A host write while BUSY = 0 stores all 32 bits, a
host write while BUSY = 1 is lost, a read returns the register, the engine never writes one. -/
def Obligations.OperandRegistersHoldHostWrites : Prop :=
  (∀ s off v rest, s.eng.pending = true → off ∈ [0x020#21, 0x024#21, 0x028#21] →
    HostNext s (.write off v) rest → WriteGives s rest (lostWrite s)) ∧
  (∀ s v rest, s.eng.pending = false →
    (HostNext s (.write 0x020#21 v) rest →
      WriteGives s rest { s with regs := { s.regs with arg0 := v } }) ∧
    (HostNext s (.write 0x024#21 v) rest →
      WriteGives s rest { s with regs := { s.regs with arg1 := v } }) ∧
    (HostNext s (.write 0x028#21 v) rest →
      WriteGives s rest { s with regs := { s.regs with arg2 := v } })) ∧
  (∀ s rest,
    (HostNext s (.read 0x020#21) rest → ReadGives s rest s.regs.arg0) ∧
    (HostNext s (.read 0x024#21) rest → ReadGives s rest s.regs.arg1) ∧
    (HostNext s (.read 0x028#21) rest → ReadGives s rest s.regs.arg2)) ∧
  (∀ s t, EngineNext s → step s = .next t →
    t.regs.arg0 = s.regs.arg0 ∧ t.regs.arg1 = s.regs.arg1 ∧ t.regs.arg2 = s.regs.arg2)

/-- 70_reset_and_hazards.md R148: host writes while BUSY = 1, at every aligned offset. -/
def Obligations.WritesWhileBusy : Prop :=
  ∀ s off v rest, HostNext s (.write off v) rest → off.toNat % 4 = 0 → s.eng.pending = true →
    (LostWhileBusy s.cfg off.toNat → WriteGives s rest (lostWrite s)) ∧
    (off.toNat = 0x008 → v.getLsbD 1 = false →
      WriteGives s rest { s with regs := { s.regs with ctrlIe := v.getLsbD 0 } }) ∧
    (off.toNat = 0x008 → v.getLsbD 1 = true → ∃ t, step s = .next t ∧ t.eng.pending = false ∧
      t.regs = Regs.reset) ∧
    (off.toNat = 0x00C → WriteGives s rest (acknowledged s v)) ∧
    (¬ LostWhileBusy s.cfg off.toNat → off.toNat ≠ 0x008 → off.toNat ≠ 0x00C → WriteGives s rest s)

/-- 70_reset_and_hazards.md R149: host reads while BUSY = 1, at every aligned offset. What BLK, DMEM and
the result registers return is left open. -/
def Obligations.ReadsWhileBusy : Prop :=
  ∀ s off rest, HostNext s (.read off) rest → off.toNat % 4 = 0 → s.eng.pending = true →
    ∃ v, ReadGives s rest v ∧
      (off.toNat = 0x000 → v = 0x454D0100#32) ∧ (off.toNat = 0x004 → v = cfgWord s.cfg) ∧
      (off.toNat = 0x008 → v = s.ctrlWord) ∧ (off.toNat = 0x00C → v = s.statusWord) ∧
      (off.toNat = 0x010 → v = s.regs.cmd) ∧ (off.toNat = 0x014 → v = s.regs.errInfo) ∧
      (off.toNat = 0x020 → v = s.regs.arg0) ∧ (off.toNat = 0x024 → v = s.regs.arg1) ∧
      (off.toNat = 0x028 → v = s.regs.arg2) ∧
      (off.toNat = 0x080 → v = s.cfg.magic[0] ++ s.cfg.magic[1] ++ s.cfg.magic[2] ++ s.cfg.magic[3]) ∧
      (off.toNat = 0x084 → v = s.cfg.version.setWidth 32) ∧
      (∀ i u : Fin 8, off.toNat = 0x600 + 8 * (8 * i.val + u.val) →
        v = (cosEntry s.cfg.cosTable i u).extractLsb' 0 32) ∧
      (∀ i u : Fin 8, off.toNat = 0x604 + 8 * (8 * i.val + u.val) →
        v = (cosEntry s.cfg.cosTable i u).extractLsb' 32 32) ∧
      (¬ Listed s.cfg off.toNat → v = 0)

/-- 20_memory.md R52: a reserved offset reads 0 and ignores writes, whatever BUSY is; 0x02C and the DMEM
window past DMEM_SIZE are reserved. -/
def Obligations.ReservedOffsetsReadZeroIgnoreWrites : Prop :=
  (∀ s off rest, off.toNat % 4 = 0 → ¬ Listed s.cfg off.toNat →
    (HostNext s (.read off) rest → ReadGives s rest 0) ∧
    (∀ v, HostNext s (.write off v) rest → WriteGives s rest s)) ∧
  (∀ c off, off = 0x02C ∨ 0x100000 + c.dmemSize ≤ off → c.legal = true → ¬ Listed c off)

/-- 10_state.md R23: a host write to a register of Table 10-1 other than ARG0 to ARG2, CTRL, STATUS and CMD
is ignored and sets no flag, whatever BUSY is. -/
def Obligations.ReadOnlyRegistersIgnoreWrites : Prop :=
  ∀ s (off : Offset) v rest,
    off.toNat ∈ [0x000, 0x004, 0x014, 0x040, 0x044, 0x048, 0x04C, 0x050, 0x054, 0x058, 0x05C, 0x060, 0x064,
      0x080, 0x084] →
    HostNext s (.write off v) rest → WriteGives s rest s

/-- 10_state.md R43: the COSROM window. Entry T[i][u] reads as its constant, low half first, whatever BUSY
is, and a host write is ignored and sets no flag. -/
def Obligations.CosromWindowReadsTheConstants : Prop :=
  ∀ s (i u : Fin 8) (off : Offset) rest,
    (off.toNat = 0x600 + 8 * (8 * i.val + u.val) → HostNext s (.read off) rest →
      ReadGives s rest ((cosEntry s.cfg.cosTable i u).extractLsb' 0 32)) ∧
    (off.toNat = 0x604 + 8 * (8 * i.val + u.val) → HostNext s (.read off) rest →
      ReadGives s rest ((cosEntry s.cfg.cosTable i u).extractLsb' 32 32)) ∧
    (∀ v, off.toNat = 0x600 + 8 * (8 * i.val + u.val) ∨ off.toNat = 0x604 + 8 * (8 * i.val + u.val) →
      HostNext s (.write off v) rest → WriteGives s rest s)

/-- 10_state.md section 2, Table 10-1: what a read of each word register returns while BUSY = 0. -/
def Obligations.IdleReadsReturnTheRegisters : Prop :=
  ∀ s off rest, HostNext s (.read off) rest → s.eng.pending = false →
    (off = 0x000#21 → ReadGives s rest 0x454D0100#32) ∧
    (off = 0x004#21 → s.cfg.legal = true → ∃ v, ReadGives s rest v ∧
      (v.extractLsb' 0 5).toNat = s.cfg.dmemLog2 ∧ v.extractLsb' 5 3 = 0 ∧
      (v.getLsbD 8 = true ↔ s.cfg.transformImpl = .ref64) ∧ v.extractLsb' 9 7 = 0 ∧
      v.getLsbD 16 = true ∧ v.extractLsb' 17 15 = 0) ∧
    (off = 0x008#21 → ReadGives s rest (if s.regs.ctrlIe then 0x00000001#32 else 0x00000000#32)) ∧
    (off = 0x00C#21 → ReadGives s rest s.statusWord) ∧
    (off = 0x010#21 → ReadGives s rest s.regs.cmd) ∧
    (off = 0x014#21 → ReadGives s rest s.regs.errInfo) ∧
    (off = 0x020#21 → ReadGives s rest s.regs.arg0) ∧
    (off = 0x024#21 → ReadGives s rest s.regs.arg1) ∧
    (off = 0x028#21 → ReadGives s rest s.regs.arg2) ∧
    (off = 0x040#21 → ReadGives s rest s.regs.crcRes) ∧
    (off = 0x044#21 → ReadGives s rest s.regs.hdrMagic) ∧
    (off = 0x048#21 → ReadGives s rest s.regs.hdrVersion) ∧
    (off = 0x04C#21 → ReadGives s rest s.regs.hdrScheme) ∧
    (off = 0x050#21 → ReadGives s rest s.regs.hdrRsvd) ∧
    (off = 0x054#21 → ReadGives s rest s.regs.hdrLen) ∧
    (off = 0x058#21 → ReadGives s rest s.regs.hdrCrc) ∧
    (off = 0x05C#21 → ReadGives s rest s.regs.payloadAddr) ∧
    (off = 0x060#21 → ReadGives s rest s.regs.outBits) ∧
    (off = 0x064#21 → ReadGives s rest s.regs.outBytes) ∧
    (off = 0x080#21 → ReadGives s rest
      (s.cfg.magic[0] ++ s.cfg.magic[1] ++ s.cfg.magic[2] ++ s.cfg.magic[3])) ∧
    (off = 0x084#21 → ReadGives s rest (s.cfg.version.setWidth 32))

/-- 20_memory.md R54: through the DMEM window the host sees DMEM little-endian, and a write stores its
four bytes and no other. -/
def Obligations.DmemWindowIsLittleEndian : Prop :=
  ∀ s a rest, s.cfg.legal = true → s.eng.pending = false → a % 4 = 0 → a < s.cfg.dmemSize →
    (∀ v, HostNext s (.write (BitVec.ofNat 21 (0x100000 + a)) v) rest → ∃ t, step s = .next t ∧
      Holds t.dmem a [v.extractLsb' 0 8, v.extractLsb' 8 8, v.extractLsb' 16 8, v.extractLsb' 24 8] ∧
      SameOutside s.dmem t.dmem a 4 ∧ t = { s with dmem := t.dmem, env := t.env }) ∧
    (∀ b0 b1 b2 b3, Holds s.dmem a [b0, b1, b2, b3] →
      HostNext s (.read (BitVec.ofNat 21 (0x100000 + a))) rest →
      ReadGives s rest (b3 ++ b2 ++ b1 ++ b0))

/-- 10_state.md R41: the BLK window. While BUSY = 0 a write replaces the 32 bits of its half and nothing
else, and a read of an element that has a value returns its half; while BUSY = 1 a write is ignored and a
read changes nothing. -/
def Obligations.BlkWindowReplacesOneHalf : Prop :=
  ∀ s (k : Fin 64) rest,
    (s.eng.pending = false →
      (∀ v, HostNext s (.write (BitVec.ofNat 21 (0x400 + 8 * k.val)) v) rest →
        ∃ t, step s = .next t ∧ t.blk[k] = ⟨some v, (s.blk[k]).hi⟩ ∧
          (∀ j : Fin 64, j ≠ k → t.blk[j] = s.blk[j]) ∧ t = { s with blk := t.blk, env := t.env }) ∧
      (∀ v, HostNext s (.write (BitVec.ofNat 21 (0x404 + 8 * k.val)) v) rest →
        ∃ t, step s = .next t ∧ t.blk[k] = ⟨(s.blk[k]).lo, some v⟩ ∧
          (∀ j : Fin 64, j ≠ k → t.blk[j] = s.blk[j]) ∧ t = { s with blk := t.blk, env := t.env }) ∧
      (∀ lo hi, s.blk[k] = ⟨some lo, some hi⟩ →
        (HostNext s (.read (BitVec.ofNat 21 (0x400 + 8 * k.val))) rest → ReadGives s rest lo) ∧
        (HostNext s (.read (BitVec.ofNat 21 (0x404 + 8 * k.val))) rest → ReadGives s rest hi))) ∧
    (s.eng.pending = true → ∀ off : Offset,
      off.toNat = 0x400 + 8 * k.val ∨ off.toNat = 0x404 + 8 * k.val →
      (∀ v, HostNext s (.write off v) rest → WriteGives s rest (lostWrite s)) ∧
      (HostNext s (.read off) rest → ∃ v, ReadGives s rest v))

/-- 10_state.md section 6, STATUS: the places of its fields, the numbers of the error codes
(60_exceptions.md R127), its exact read and its write-one-to-clear, whatever BUSY is. -/
def Obligations.StatusFieldsAndWriteOneToClear : Prop :=
  (∀ s : State,
    s.statusWord.getLsbD 0 = s.eng.pending ∧ s.statusWord.getLsbD 1 = s.regs.status.done ∧
    (s.statusWord.getLsbD 2 = true ↔ s.statusWord.extractLsb' 8 8 ≠ 0) ∧
    s.statusWord.getLsbD 3 = s.regs.status.busyWr ∧
    s.statusWord.getLsbD 4 = s.regs.status.fpNonfinite ∧
    s.statusWord.getLsbD 5 = s.regs.status.hdrVerMismatch ∧
    s.statusWord.getLsbD 6 = s.regs.status.hdrSchemeUnsup ∧
    s.statusWord.getLsbD 7 = s.regs.status.hdrRsvdNz ∧
    s.statusWord.extractLsb' 8 8 = (match s.regs.status.errCode with
      | .none => 0#8
      | .illegalCmd => 1#8
      | .range => 2#8
      | .overlap => 3#8
      | .badArg => 4#8
      | .insufficientBits => 5#8
      | .frameTooShort => 6#8
      | .invalidMagic => 7#8
      | .invalidLength => 8#8
      | .crcMismatch => 9#8
      | .unsupportedScheme => 10#8) ∧
    s.statusWord.extractLsb' 16 16 = 0) ∧
  (∀ s rest, HostNext s (.read 0x00C#21) rest → ReadGives s rest s.statusWord) ∧
  (∀ s v rest, HostNext s (.write 0x00C#21 v) rest → WriteGives s rest (acknowledged s v))

/-- 10_state.md R29: CTRL. -/
def Obligations.CtrlWriteSetsIeOrResets : Prop :=
  (∀ s rest, HostNext s (.read 0x008#21) rest →
    ReadGives s rest (if s.regs.ctrlIe then 0x00000001#32 else 0x00000000#32)) ∧
  (∀ s v rest, HostNext s (.write 0x008#21 v) rest →
    (v.getLsbD 1 = false → WriteGives s rest { s with regs := { s.regs with ctrlIe := v.getLsbD 0 } }) ∧
    (v.getLsbD 1 = true → ∃ t, step s = .next t ∧ t.regs = Regs.reset ∧ t.eng = Engine.reset ∧
      t.regs.ctrlIe = false)) ∧
  (∀ s : State, s.irq = true ↔ s.regs.ctrlIe = true ∧ s.regs.status.done = true) ∧
  State.reset.regs.ctrlIe = false

/-! ### Reset -/

/-- 70_reset_and_hazards.md R144: soft reset, whatever BUSY is. What it does to the cells of a command it
aborts is the next statement. -/
def Obligations.SoftResetClearsTheRegisters : Prop :=
  ∀ s v rest, HostNext s (.write 0x008#21 v) rest → v.getLsbD 1 = true →
    ∃ t, step s = .next t ∧
      t.regs =
        { ctrlIe := false
          status := { done := false, busyWr := false, fpNonfinite := false, hdrVerMismatch := false,
                      hdrSchemeUnsup := false, hdrRsvdNz := false, errCode := .none }
          cmd := 0, errInfo := 0, arg0 := 0, arg1 := 0, arg2 := 0, crcRes := 0, hdrMagic := 0
          hdrVersion := 0, hdrScheme := 0, hdrRsvd := 0, hdrLen := 0, hdrCrc := 0, payloadAddr := 0
          outBits := 0, outBytes := 0 } ∧
      t.eng = { pending := false, lcmd := 0, larg0 := 0, larg1 := 0, larg2 := 0 } ∧
      t.irq = false ∧ t.cfg = s.cfg ∧ t.env.todo = rest ∧
      (s.eng.pending = false → t.blk = s.blk ∧ t.dmem = s.dmem)

/-- 70_reset_and_hazards.md R145: soft reset while BUSY = 1 sets exactly the cells the pending command
would have written to "no value", command by command. Two clauses are the model's reading of R145: an
aborted element loses both its halves (log 9, DEDUCED), and a command whose checks pass counts as one that
writes even where it would have faulted on a source cell with no value (log 25, DEDUCED). -/
def Obligations.SoftResetAbortsThePendingCommand : Prop :=
  ∀ s v rest, HostNext s (.write 0x008#21 v) rest → v.getLsbD 1 = true → s.eng.pending = true →
    ∃ t, step s = .next t ∧ t.eng.pending = false ∧ t.regs = Regs.reset ∧
      (s.eng.lcmd = 0x01#32 ∨ s.eng.lcmd = 0x02#32 →
        (∀ k : Fin 64, t.blk[k] = ⟨none, none⟩) ∧ t.dmem = s.dmem) ∧
      (s.eng.lcmd = 0x10#32 → EncChecksPass s → t.blk = s.blk ∧
        (∀ x, op2 s ≤ x → x < op2 s + bytesFor (3 * op1 s) → t.dmem.read x = none) ∧
        SameOutside s.dmem t.dmem (op2 s) (bytesFor (3 * op1 s))) ∧
      (s.eng.lcmd = 0x11#32 → DecChecksPass s → t.blk = s.blk ∧
        (∀ x, op2 s ≤ x → x < op2 s + bytesFor (op1 s / 3) → t.dmem.read x = none) ∧
        SameOutside s.dmem t.dmem (op2 s) (bytesFor (op1 s / 3))) ∧
      (s.eng.lcmd = 0x21#32 → BuildChecksPass s → t.blk = s.blk ∧
        (∀ x, op0 s ≤ x → x < op0 s + 16 → t.dmem.read x = none) ∧
        SameOutside s.dmem t.dmem (op0 s) 16) ∧
      ((s.eng.lcmd ≠ 0x01#32 ∧ s.eng.lcmd ≠ 0x02#32 ∧ (s.eng.lcmd = 0x10#32 → ¬ EncChecksPass s) ∧
          (s.eng.lcmd = 0x11#32 → ¬ DecChecksPass s) ∧
          (s.eng.lcmd = 0x21#32 → ¬ BuildChecksPass s)) →
        t.blk = s.blk ∧ t.dmem = s.dmem)

/-- 70_reset_and_hazards.md section 1: the state right after power-on reset. That it is the instance with
the defaults of Table 00-1 is the model's choice (log 1). -/
def Obligations.ResetStateIsTheTable : Prop :=
  State.reset.regs =
    { ctrlIe := false
      status := { done := false, busyWr := false, fpNonfinite := false, hdrVerMismatch := false,
                  hdrSchemeUnsup := false, hdrRsvdNz := false, errCode := .none }
      cmd := 0, errInfo := 0, arg0 := 0, arg1 := 0, arg2 := 0, crcRes := 0, hdrMagic := 0
      hdrVersion := 0, hdrScheme := 0, hdrRsvd := 0, hdrLen := 0, hdrCrc := 0, payloadAddr := 0
      outBits := 0, outBytes := 0 } ∧
  State.reset.eng = { pending := false, lcmd := 0, larg0 := 0, larg1 := 0, larg2 := 0 } ∧
  (∀ k : Fin 64, State.reset.blk[k] = ⟨none, none⟩) ∧ (∀ a, State.reset.dmem.read a = none) ∧
  State.reset.irq = false ∧ cfgWord State.reset.cfg = 0x00010110#32

/-- Power-on reset as an event in the host's program (the model's form of it: log 12): every component of
the block starts again, whatever was pending; the parameters stay. -/
def Obligations.PowerOnResetStartsAgain : Prop :=
  ∀ s rest, HostNext s .powerOnReset rest → ∃ t, step s = .next t ∧ t.cfg = s.cfg ∧
    t.regs = Regs.reset ∧ t.eng = Engine.reset ∧ (∀ k : Fin 64, t.blk[k] = ⟨none, none⟩) ∧
    (∀ a, t.dmem.read a = none) ∧ t.env.todo = rest

/-! ### NOP and the transforms -/

/-- 43_control.md, NOP: completion only, in every state; its word with nonzero MBZ is no NOP. -/
def Obligations.NopOnlyCompletes : Prop :=
  (∀ s, exec .nop s = .next (finished s .none 0)) ∧
  (∀ s, EngineNext s → s.eng.lcmd = 0x00000100#32 →
    step s = .next (finished s .illegalCmd 0x00000100#32))

/-- 40_transform.md section 5, FDCT: for every block all of whose elements have a value. -/
def Obligations.FdctReplacesBlkByItsTransform : Prop := TransformLaw .fdct fwd64 Config.fwdImpl

/-- 40_transform.md section 5, IDCT: for every block all of whose elements have a value. -/
def Obligations.IdctReplacesBlkByItsInverse : Prop := TransformLaw .idct inv64 Config.invImpl

/-- 40_transform.md R84, R87, R89: the normalisation constants, and the forward dataflow spelled out
element by element. -/
def Obligations.ForwardDataflowIsRowsThenColumns : Prop :=
  (∀ u : Fin 8, normConstant u = if u = 0 then 0x3FD6A09E667F3BCD#64 else 0x3FE0000000000000#64) ∧
  ∀ (tbl : CosTable) (x : Block) (u v : Fin 8),
    (fwd64 tbl x)[8 * u.val + v.val]'(by omega) =
      fpMul (normConstant u) (sum8 fun row => fpMul
        (fpMul (normConstant v) (sum8 fun col =>
          fpMul (x[8 * row.val + col.val]'(by omega)) (cosEntry tbl col v)))
        (cosEntry tbl row u))

/-- 40_transform.md R88, R90: the inverse dataflow, spelled out element by element. -/
def Obligations.InverseDataflowIsRowsThenColumns : Prop :=
  ∀ (tbl : CosTable) (x : Block) (row col : Fin 8),
    (inv64 tbl x)[8 * row.val + col.val]'(by omega) =
      sum8 fun u => fpMul (fpMul (normConstant u)
        (sum8 fun v => fpMul (fpMul (normConstant v) (x[8 * u.val + v.val]'(by omega)))
          (cosEntry tbl col v)))
        (cosEntry tbl row u)

/-- 40_transform.md R85: the folded table, and the default constants. Each pair is (sigma is -1, kappa).
Two clauses are the model's: the reset state's instance has the default table (log 1, DESIGN CHOICE), and
where COS_TABLE is given as 64 entries (R86) entry 8i + u is T[i][u] (log 24, DEDUCED). -/
def Obligations.CosineTableIsFolded : Prop :=
  (∀ (tbl : Vector F64 7) (i u : Fin 8), cosEntry (.constants tbl) i u =
    let fold : List (List (Bool × Nat)) :=
      [[(false, 0), (false, 1), (false, 2), (false, 3), (false, 4), (false, 5), (false, 6), (false, 7)],
       [(false, 0), (false, 3), (false, 6), (true, 7), (true, 4), (true, 1), (true, 2), (true, 5)],
       [(false, 0), (false, 5), (true, 6), (true, 1), (true, 4), (false, 7), (false, 2), (false, 3)],
       [(false, 0), (false, 7), (true, 2), (true, 5), (false, 4), (false, 3), (true, 6), (true, 1)],
       [(false, 0), (true, 7), (true, 2), (false, 5), (false, 4), (true, 3), (true, 6), (false, 1)],
       [(false, 0), (true, 5), (true, 6), (false, 1), (true, 4), (true, 7), (false, 2), (true, 3)],
       [(false, 0), (true, 3), (false, 6), (false, 7), (true, 4), (false, 1), (true, 2), (false, 5)],
       [(false, 0), (true, 1), (false, 2), (true, 3), (false, 4), (true, 5), (false, 6), (true, 7)]]
    let entry := (fold.getD i.val []).getD u.val (false, 0)
    let c := (0x3FF0000000000000#64 :: tbl.toList).getD entry.2 0
    if entry.1 then c ^^^ 0x8000000000000000#64 else c) ∧
  Config.defaultCosTable = .constants #v[0x3FEF6297CFF75CB0#64, 0x3FED906BCF328D46#64,
    0x3FEA9B66290EA1A3#64, 0x3FE6A09E667F3BCD#64, 0x3FE1C73B39AE68C8#64, 0x3FD87DE2A6AEA963#64,
    0x3FC8F8B83C69A60B#64] ∧
  State.reset.cfg.cosTable = Config.defaultCosTable ∧
  (∀ (tbl : Vector F64 64) (i u : Fin 8),
    cosEntry (.entries tbl) i u = tbl[8 * i.val + u.val]'(by omega))

/-- 40_transform.md, under REF64: a NaN input makes all 64 outputs NaN and sets FP_NONFINITE, and the
command still completes without an error. For FDCT it is a corner case of R96. For IDCT it is inferred from
the dataflow (R88, R90) and from NaN propagation (R83, general knowledge: log 16, PRESUMED). -/
def Obligations.NaNInputMakesEveryOutputNaN : Prop :=
  ∀ i s x, (i = .fdct ∨ i = .idct) → s.cfg.transformImpl = .ref64 → BlkIs s x →
    (∃ k : Fin 64, fpIsNaN x[k] = true) →
    ∃ t y, exec i s = .next t ∧ BlkIs t y ∧ (∀ k : Fin 64, fpIsNaN y[k] = true) ∧
      t.regs.status.fpNonfinite = true ∧ t.regs.status.errCode = .none

/-- 40_transform.md, corner cases: an all-zero block gives all +0.0, and so does an all -0.0 block, with
the default table. -/
def Obligations.ZeroBlocksGivePlusZero : Prop :=
  (fwd64 Config.defaultCosTable (Vector.replicate 64 0x0000000000000000#64)).toList =
    List.replicate 64 0x0000000000000000#64 ∧
  (fwd64 Config.defaultCosTable (Vector.replicate 64 0x8000000000000000#64)).toList =
    List.replicate 64 0x0000000000000000#64 ∧
  (inv64 Config.defaultCosTable (Vector.replicate 64 0x0000000000000000#64)).toList =
    List.replicate 64 0x0000000000000000#64

/-- 40_transform.md R92: a transform's result depends only on BLK and the configuration, but for what R94
leaves unspecified (a NaN's bits; ABSTRACT on a non-finite input). -/
def Obligations.TransformDependsOnlyOnBlkAndConfig : Prop :=
  ∀ i s s' t t' x, (i = .fdct ∨ i = .idct) → s.cfg = s'.cfg → BlkIs s x → BlkIs s' x →
    (s.cfg.transformImpl = .ref64 ∨ ∀ k : Fin 64, fpIsFinite x[k] = true) →
    exec i s = .next t → exec i s' = .next t' →
    ∃ y y', BlkIs t y ∧ BlkIs t' y' ∧
      (∀ k : Fin 64, y[k] = y'[k] ∨ (fpIsNaN y[k] = true ∧ fpIsNaN y'[k] = true)) ∧
      t.regs.status.fpNonfinite = t'.regs.status.fpNonfinite

/-- 40_transform.md section 2, arithmetic: a sum that does not round past the largest finite value (its
magnitude is below 2^1024 - 2^970) is finite, and is the exact sum rounded to nearest, ties to even. -/
def Obligations.AdditionRoundsToNearestEven : Prop :=
  ∀ x y : F64, fpIsFinite x = true → fpIsFinite y = true →
    |fpValue x + fpValue y| < 2 ^ 1024 - 2 ^ 970 →
    fpIsFinite (fpAdd x y) = true ∧ RoundsTo (fpAdd x y) (fpValue x + fpValue y)

/-- 40_transform.md section 2, arithmetic: a product that does not round past the largest finite value (its
magnitude is below 2^1024 - 2^970) is finite, and is the exact product rounded to nearest, ties to even,
subnormal results kept. -/
def Obligations.MultiplicationRoundsToNearestEven : Prop :=
  ∀ x y : F64, fpIsFinite x = true → fpIsFinite y = true →
    |fpValue x * fpValue y| < 2 ^ 1024 - 2 ^ 970 →
    fpIsFinite (fpMul x y) = true ∧ RoundsTo (fpMul x y) (fpValue x * fpValue y)

/-- 40_transform.md section 2, the special values. R83 names +0.0 + (-0.0) = +0.0 and that an infinity times
a finite nonzero value is an infinity, both from general knowledge. The sum of two negative zeros, the sign
of that infinity and NaN propagation are IEEE 754's as the model takes it (log 16, PRESUMED). -/
def Obligations.SpecialValuesFollowIeee : Prop :=
  fpAdd 0x0000000000000000#64 0x8000000000000000#64 = 0x0000000000000000#64 ∧
  fpAdd 0x8000000000000000#64 0x8000000000000000#64 = 0x8000000000000000#64 ∧
  (∀ x y : F64, fpIsInf x = true → fpIsFinite y = true → fpValue y ≠ 0 →
    fpIsInf (fpMul x y) = true ∧ fpSign (fpMul x y) = (fpSign x != fpSign y) ∧
    fpMul y x = fpMul x y) ∧
  (∀ x y : F64, fpIsNaN x = true → fpIsNaN (fpAdd x y) = true ∧ fpIsNaN (fpAdd y x) = true ∧
    fpIsNaN (fpMul x y) = true ∧ fpIsNaN (fpMul y x) = true)

/-! ### Cells with no value -/

/-- 20_memory.md R61: a command that reads an element or a byte with no value faults, naming the command;
every byte of nbytes(n) counts, also where only some of its bits are in the stream. -/
def Obligations.ReadingACellWithNoValueFaults : Prop :=
  (∀ s (k : Fin 64), (s.blk[k]).lo = none ∨ (s.blk[k]).hi = none →
    exec .fdct s = .fault (.blkNoValue .fdct) ∧ exec .idct s = .fault (.blkNoValue .idct)) ∧
  (∀ s, EncChecksPass s → ¬ HasBytes s.dmem (op0 s) (bytesFor (op1 s)) →
    exec .rep3Enc s = .fault (.dmemNoValue .rep3Enc)) ∧
  (∀ s, DecChecksPass s → ¬ HasBytes s.dmem (op0 s) (bytesFor (op1 s)) →
    exec .rep3Dec s = .fault (.dmemNoValue .rep3Dec)) ∧
  (∀ s, InRange s (op0 s) (op1 s) → ¬ HasBytes s.dmem (op0 s) (op1 s) →
    exec .crc32 s = .fault (.dmemNoValue .crc32)) ∧
  (∀ s, BuildChecksPass s → ¬ HasBytes s.dmem (op0 s + 16) (op1 s) →
    exec .hdrBuild s = .fault (.dmemNoValue .hdrBuild)) ∧
  (∀ s, InRange s (op0 s) (op1 s) → 16 ≤ op1 s → ¬ HasBytes s.dmem (op0 s) 16 →
    exec .hdrParse s = .fault (.dmemNoValue .hdrParse)) ∧
  (∀ s h, InRange s (op0 s) (op1 s) → h.length = 16 → Holds s.dmem (op0 s) h → MagicMatches s h →
    16 + (headerRead s h).regs.hdrLen.toNat ≤ op1 s →
    ¬ HasBytes s.dmem (op0 s + 16) (headerRead s h).regs.hdrLen.toNat →
    exec .hdrParse s = .fault (.dmemNoValue .hdrParse))

/-! ### The repetition code -/

/-- 41_repetition.md R102: REP3_ENC, its errors in their order and its result. -/
def Obligations.Rep3EncTriplesEveryBit : Prop :=
  encode .rep3Enc = 0x00000010#32 ∧ ∀ s,
    (¬ InRange s (op0 s) (bytesFor (op1 s)) → exec .rep3Enc s = .next (finished s .range 0)) ∧
    (InRange s (op0 s) (bytesFor (op1 s)) → ¬ InRange s (op2 s) (bytesFor (3 * op1 s)) →
      exec .rep3Enc s = .next (finished s .range 2)) ∧
    (InRange s (op0 s) (bytesFor (op1 s)) → InRange s (op2 s) (bytesFor (3 * op1 s)) →
      Overlaps (op0 s) (bytesFor (op1 s)) (op2 s) (bytesFor (3 * op1 s)) →
      exec .rep3Enc s = .next (finished s .overlap 0)) ∧
    (EncChecksPass s → HasBytes s.dmem (op0 s) (bytesFor (op1 s)) →
      ∃ t, exec .rep3Enc s = .next t ∧
        (∀ k, k < 3 * op1 s → ∃ b, BitIs s.dmem (op0 s) (k / 3) b ∧ BitIs t.dmem (op2 s) k b) ∧
        (∀ k, 3 * op1 s ≤ k → k < 8 * bytesFor (3 * op1 s) → BitIs t.dmem (op2 s) k false) ∧
        SameOutside s.dmem t.dmem (op2 s) (bytesFor (3 * op1 s)) ∧
        t = repDone s t.dmem (3 * op1 s))

/-- 41_repetition.md R103, R104: REP3_DEC, its errors in their order and its result. -/
def Obligations.Rep3DecTakesTheMajority : Prop :=
  encode .rep3Dec = 0x00000011#32 ∧ ∀ s,
    (op1 s < 3 → exec .rep3Dec s = .next (finished s .insufficientBits s.eng.larg1)) ∧
    (3 ≤ op1 s → ¬ InRange s (op0 s) (bytesFor (op1 s)) →
      exec .rep3Dec s = .next (finished s .range 0)) ∧
    (3 ≤ op1 s → InRange s (op0 s) (bytesFor (op1 s)) → ¬ InRange s (op2 s) (bytesFor (op1 s / 3)) →
      exec .rep3Dec s = .next (finished s .range 2)) ∧
    (3 ≤ op1 s → InRange s (op0 s) (bytesFor (op1 s)) → InRange s (op2 s) (bytesFor (op1 s / 3)) →
      Overlaps (op0 s) (bytesFor (op1 s)) (op2 s) (bytesFor (op1 s / 3)) →
      exec .rep3Dec s = .next (finished s .overlap 0)) ∧
    (DecChecksPass s → HasBytes s.dmem (op0 s) (bytesFor (op1 s)) →
      ∃ t, exec .rep3Dec s = .next t ∧
        (∀ j, j < op1 s / 3 → ∃ p q r, BitIs s.dmem (op0 s) (3 * j) p ∧
          BitIs s.dmem (op0 s) (3 * j + 1) q ∧ BitIs s.dmem (op0 s) (3 * j + 2) r ∧
          BitIs t.dmem (op2 s) j (decide (2 ≤ p.toNat + q.toNat + r.toNat))) ∧
        (∀ j, op1 s / 3 ≤ j → j < 8 * bytesFor (op1 s / 3) → BitIs t.dmem (op2 s) j false) ∧
        SameOutside s.dmem t.dmem (op2 s) (bytesFor (op1 s / 3)) ∧
        t = repDone s t.dmem (op1 s / 3))

/-- 41_repetition.md R100: a triple of copies of `b` in which the bits e0, e1, e2 say which copies are
flipped decodes to `b` with one flip and to its complement with two or three, and no error is reported. -/
def Obligations.OneFlippedCopyIsCorrectedTwoAreNot : Prop :=
  ∀ s j b e0 e1 e2, DecChecksPass s → HasBytes s.dmem (op0 s) (bytesFor (op1 s)) → j < op1 s / 3 →
    BitIs s.dmem (op0 s) (3 * j) (b ^^ e0) → BitIs s.dmem (op0 s) (3 * j + 1) (b ^^ e1) →
    BitIs s.dmem (op0 s) (3 * j + 2) (b ^^ e2) →
    ∃ t, exec .rep3Dec s = .next t ∧ t.regs.status = { s.regs.status with done := true, errCode := .none } ∧
      (e0.toNat + e1.toNat + e2.toNat ≤ 1 → BitIs t.dmem (op2 s) j b) ∧
      (2 ≤ e0.toNat + e1.toNat + e2.toNat → BitIs t.dmem (op2 s) j !b)

/-- 41_repetition.md R105: encode n >= 1 bits, then decode the 3n bits from where they were written, and
the n source bits come back, packed with zero padding. -/
def Obligations.RepetitionRoundTripReturnsTheBits : Prop :=
  ∀ s t u, 1 ≤ op1 s → EncChecksPass s → exec .rep3Enc s = .next t →
    u.cfg = s.cfg → u.eng.larg0 = s.eng.larg2 → op1 u = 3 * op1 s → DecChecksPass u →
    (∀ x, op2 s ≤ x → x < op2 s + bytesFor (3 * op1 s) → u.dmem.read x = t.dmem.read x) →
    ∃ w, exec .rep3Dec u = .next w ∧
      (∀ k, k < op1 s → ∃ b, BitIs s.dmem (op0 s) k b ∧ BitIs w.dmem (op2 u) k b) ∧
      (∀ k, op1 s ≤ k → k < 8 * bytesFor (op1 s) → BitIs w.dmem (op2 u) k false) ∧
      w.regs.outBits.toNat = op1 s

/-! ### The frame protocol -/

/-- 42_frame.md R108, its check values: the empty sequence, "123456789", "hello". -/
def Obligations.CrcCheckValues : Prop :=
  crc32 [] = 0x00000000#32 ∧
  crc32 [0x31, 0x32, 0x33, 0x34, 0x35, 0x36, 0x37, 0x38, 0x39] = 0xCBF43926#32 ∧
  crc32 [0x68, 0x65, 0x6C, 0x6C, 0x6F] = 0x3610A686#32

/-- 42_frame.md R109: CRC32. -/
def Obligations.Crc32WritesTheChecksum : Prop :=
  encode .crc32 = 0x00000020#32 ∧ ∀ s,
    (¬ InRange s (op0 s) (op1 s) → exec .crc32 s = .next (finished s .range 0)) ∧
    (∀ bs, InRange s (op0 s) (op1 s) → bs.length = op1 s → Holds s.dmem (op0 s) bs →
      exec .crc32 s =
        .next (finished { s with regs := { s.regs with crcRes := crc32 bs } } .none 0))

/-- 42_frame.md R110: HDR_BUILD, its errors in their order and its result. -/
def Obligations.HdrBuildWritesTheHeader : Prop :=
  encode .hdrBuild = 0x00000021#32 ∧ ∀ s,
    (s.eng.larg2.extractLsb' 8 24 ≠ 0 → exec .hdrBuild s = .next (finished s .badArg 2)) ∧
    (s.eng.larg2.extractLsb' 8 24 = 0 → s.eng.larg2.extractLsb' 0 8 ≠ 1 →
      exec .hdrBuild s =
        .next (finished s .unsupportedScheme ((s.eng.larg2.extractLsb' 0 8).setWidth 32))) ∧
    (s.eng.larg2 = 1 → ¬ InRange s (op0 s) (16 + op1 s) →
      exec .hdrBuild s = .next (finished s .range 0)) ∧
    (∀ payload, BuildChecksPass s → payload.length = op1 s → Holds s.dmem (op0 s + 16) payload →
      ∃ t, exec .hdrBuild s = .next t ∧
        Holds t.dmem (op0 s) (headerBytes s.cfg s.eng.larg1 (crc32 payload)) ∧
        SameOutside s.dmem t.dmem (op0 s) 16 ∧ t = buildDone s t.dmem (crc32 payload))

/-- 42_frame.md R111, R114, R116: HDR_PARSE, its errors in their order, what each leaves, and its
result. -/
def Obligations.HdrParseValidatesTheFrame : Prop :=
  encode .hdrParse = 0x00000022#32 ∧ ∀ s,
    (¬ InRange s (op0 s) (op1 s) → exec .hdrParse s = .next (finished s .range 0)) ∧
    (InRange s (op0 s) (op1 s) → op1 s < 16 →
      exec .hdrParse s = .next (finished s .frameTooShort s.eng.larg1)) ∧
    (∀ h, InRange s (op0 s) (op1 s) → 16 ≤ op1 s → h.length = 16 → Holds s.dmem (op0 s) h →
      (¬ MagicMatches s h → exec .hdrParse s =
        .next (finished (headerRead s h) .invalidMagic (headerRead s h).regs.hdrMagic)) ∧
      (MagicMatches s h → op1 s < 16 + (headerRead s h).regs.hdrLen.toNat → exec .hdrParse s =
        .next (finished (headerRead s h) .invalidLength (headerRead s h).regs.hdrLen)) ∧
      (∀ payload, MagicMatches s h → 16 + (headerRead s h).regs.hdrLen.toNat ≤ op1 s →
        payload.length = (headerRead s h).regs.hdrLen.toNat → Holds s.dmem (op0 s + 16) payload →
        (crc32 payload ≠ (headerRead s h).regs.hdrCrc → exec .hdrParse s =
          .next (finished { headerRead s h with regs := { (headerRead s h).regs with
            crcRes := crc32 payload } } .crcMismatch (crc32 payload))) ∧
        (crc32 payload = (headerRead s h).regs.hdrCrc → exec .hdrParse s =
          .next (parseDone s h (crc32 payload)))))

/-- 42_frame.md R117: HDR_BUILD, then HDR_PARSE of the same range, succeeds with the payload's length, the
scheme, the payload's address and no information flag, when nothing writes the frame in between. DMEM_SIZE
is legal (00_scope.md R5). -/
def Obligations.FrameRoundTripSucceeds : Prop :=
  ∀ s t u payload, s.cfg.legal = true → BuildChecksPass s → payload.length = op1 s →
    Holds s.dmem (op0 s + 16) payload → exec .hdrBuild s = .next t →
    u.cfg = s.cfg → op0 u = op0 s → op1 u = 16 + op1 s →
    (∀ x, op0 s ≤ x → x < op0 s + (16 + op1 s) → u.dmem.read x = t.dmem.read x) →
    ∃ w, exec .hdrParse u = .next w ∧ w.regs.status.errCode = .none ∧ w.regs.hdrLen = s.eng.larg1 ∧
      w.regs.hdrScheme = 1 ∧ w.regs.payloadAddr.toNat = op0 s + 16 ∧
      w.regs.status.hdrVerMismatch = false ∧ w.regs.status.hdrSchemeUnsup = false ∧
      w.regs.status.hdrRsvdNz = false ∧ Holds w.dmem (op0 s + 16) payload

/-- 42_frame.md R118: after HDR_BUILD, one flipped payload bit makes HDR_PARSE fail with CRC_MISMATCH, and
changed magic bytes make it fail with INVALID_MAGIC. -/
def Obligations.TamperedFrameIsRejected : Prop :=
  ∀ s t u payload, BuildChecksPass s → payload.length = op1 s → Holds s.dmem (op0 s + 16) payload →
    exec .hdrBuild s = .next t → u.cfg = s.cfg → op0 u = op0 s → op1 u = 16 + op1 s →
    (∀ k bit, k < op1 s → bit < 8 →
      (∀ v, t.dmem.read (op0 s + 16 + k) = some v →
        u.dmem.read (op0 s + 16 + k) = some (v ^^^ ((1#8) <<< bit))) →
      (∀ x, op0 s ≤ x → x < op0 s + (16 + op1 s) → x ≠ op0 s + 16 + k →
        u.dmem.read x = t.dmem.read x) →
      ∃ w, exec .hdrParse u = .next w ∧ w.regs.status.errCode = .crcMismatch) ∧
    (∀ magic : List Byte, magic.length = 4 → Holds u.dmem (op0 s) magic →
      magic ≠ [s.cfg.magic[0], s.cfg.magic[1], s.cfg.magic[2], s.cfg.magic[3]] →
      (∀ x, op0 s + 4 ≤ x → x < op0 s + (16 + op1 s) → u.dmem.read x = t.dmem.read x) →
      ∃ w, exec .hdrParse u = .next w ∧ w.regs.status.errCode = .invalidMagic)

/-! ### Errors -/

/-- 60_exceptions.md R126: errors are precise. Of a failed command, only HDR_PARSE writes result
registers: the header registers and flags, and CRC_RES where it computed one. -/
def Obligations.ErrorsArePrecise : Prop :=
  ∀ s t, EngineNext s → step s = .next t → t.regs.status.errCode ≠ .none →
    t.dmem = s.dmem ∧ t.blk = s.blk ∧ sameOutputs s t ∧
    (s.eng.lcmd ≠ 0x22#32 → sameHeader s t) ∧
    (t.regs.status.errCode ≠ .crcMismatch → t.regs.crcRes = s.regs.crcRes)

/-- 60_exceptions.md section 2: each command raises only the codes of its own rule; NOP, FDCT and IDCT
raise nothing. -/
def Obligations.CommandsRaiseOnlyTheirOwnCodes : Prop :=
  ∀ i s t, exec i s = .next t →
    t.regs.status.errCode = .none ∨ t.regs.status.errCode ∈ mayRaise i

/-- 60_exceptions.md R128: what ERR_INFO holds after the engine's step, for each code. -/
def Obligations.ErrInfoFollowsTheCode : Prop :=
  ∀ s t, EngineNext s → step s = .next t →
    match t.regs.status.errCode with
    | .none => t.regs.errInfo = 0
    | .illegalCmd => t.regs.errInfo = s.eng.lcmd
    | .range => (t.regs.errInfo = 0 ∨ t.regs.errInfo = 2) ∧
        (t.regs.errInfo = 2 ↔
          (s.eng.lcmd = 0x10#32 ∧ InRange s (op0 s) (bytesFor (op1 s))) ∨
          (s.eng.lcmd = 0x11#32 ∧ InRange s (op0 s) (bytesFor (op1 s))))
    | .overlap => t.regs.errInfo = 0
    | .badArg => t.regs.errInfo = 2
    | .insufficientBits => t.regs.errInfo = s.eng.larg1
    | .frameTooShort => t.regs.errInfo = s.eng.larg1
    | .invalidMagic => ∃ b0 b1 b2 b3, Holds s.dmem (op0 s) [b0, b1, b2, b3] ∧
        t.regs.errInfo = b0 ++ b1 ++ b2 ++ b3
    | .invalidLength => ∃ b0 b1 b2 b3, Holds s.dmem (op0 s + 8) [b0, b1, b2, b3] ∧
        t.regs.errInfo = b0 ++ b1 ++ b2 ++ b3
    | .crcMismatch => t.regs.errInfo = t.regs.crcRes
    | .unsupportedScheme => t.regs.errInfo = (s.eng.larg2.extractLsb' 0 8).setWidth 32

/-! ### The whole machine -/

/-- The invariant of Safety.lean holds after every step from a state in which it holds. -/
def Obligations.StepKeepsTheInvariant : Prop :=
  ∀ s t : State, s.Inv → step s = .next t → t.Inv

/-- The invariant holds right after reset. -/
def Obligations.ResetMeetsTheInvariant : Prop := State.reset.Inv

/-- 10_state.md R18: the parameters are fixed for the life of an instance, and the constant registers and
COSROM are functions of them. -/
def Obligations.ConfigurationNeverChanges : Prop :=
  (∀ s t : State, step s = .next t → t.cfg = s.cfg) ∧
  (∀ s s' : State, s.cfg = s'.cfg → ∀ off : Offset,
    off.toNat ∈ [0x000, 0x004, 0x080, 0x084] ∨ (0x600 ≤ off.toNat ∧ off.toNat < 0x800) →
    s.readWindow off = s'.readWindow off)

/-- 60_exceptions.md section 4: IRQ rises only by the completion of a command, or by an IE write while DONE
is already 1; and DONE becomes 1 only by a completion. -/
def Obligations.InterruptRisesOnlyByCompletionOrEnable : Prop :=
  ∀ s t, step s = .next t →
    (s.regs.status.done = false → t.regs.status.done = true → EngineNext s) ∧
    (s.irq = false → t.irq = true → EngineNext s ∨
      (s.regs.status.done = true ∧ ∃ v rest, HostNext s (.write 0x008#21 v) rest ∧
        v.getLsbD 0 = true ∧ v.getLsbD 1 = false))

/-- 20_memory.md section 7: between acceptance and the engine's step no host step changes what the command
works on, unless it ends the command. -/
def Obligations.PendingCommandKeepsItsData : Prop :=
  ∀ s t, s.eng.pending = true → ¬ EngineNext s → step s = .next t → t.eng.pending = true →
    t.eng = s.eng ∧ t.blk = s.blk ∧ t.dmem = s.dmem ∧ t.cfg = s.cfg ∧ t.regs.cmd = s.regs.cmd ∧
    t.regs.arg0 = s.regs.arg0 ∧ t.regs.arg1 = s.regs.arg1 ∧ t.regs.arg2 = s.regs.arg2 ∧
    t.regs.errInfo = s.regs.errInfo ∧ sameHeader s t ∧ sameOutputs s t

/-- 70_reset_and_hazards.md section 4: the engine's step of a pending command comes after finitely many
host steps, at most the free number `delay` (log 4), when the host program waits for it, and neither resets
the block nor stops at an assertion; and then the command is as it was accepted. A program that does not
wait may end before that, and the run is then stuck (R155). -/
def Obligations.EngineStepComesAfterFinitelyManyHostSteps : Prop :=
  ∀ s : State, s.eng.pending = true → (∀ h ∈ s.env.todo, Harmless h) →
    ∃ k t, k ≤ s.env.delay ∧ Reaches k s t ∧ (EngineNext t ∨ EndedBusy t) ∧
      (HostStmt.wait ∈ s.env.todo → EngineNext t) ∧ t.eng = s.eng ∧ t.blk = s.blk ∧ t.dmem = s.dmem

/-- 20_memory.md R50, R51: an access of another width or at an offset that is no multiple of 4 gets a bus
error and nothing else; in the model it ends the run. -/
def Obligations.IllFormedAccessGetsABusError : Prop :=
  ∀ s a rest, HostNext s (.access a) rest → a.width ≠ 32 ∨ a.off.toNat % 4 ≠ 0 →
    step s = .fault (.busError a)

/-- 60_exceptions.md section 5, power states: with nothing pending and nothing for the host to do, the
block keeps all its state. -/
def Obligations.IdleBlockKeepsItsState : Prop :=
  ∀ s : State, s.eng.pending = false → s.env.todo = [] → step s = .next s

/-- 70_reset_and_hazards.md section 5, R155, and 93_implementation_defined.md U21: a run whose program ended
while BUSY = 1 is stuck, it makes no further progress and never ends; so every run that reaches an end is
final, and no final run passes through such a state (the model's form of "stuck" is log 4). -/
def Obligations.ProgramEndedWhileBusyIsStuck : Prop :=
  (∀ s, EndedBusy s → step s = .next s) ∧
  (∀ k s t, EndedBusy s → Reaches k s t → t = s ∧ ¬ Ended t) ∧
  (∀ k s t, FinalRun k s t ↔ Reaches k s t ∧ Ended t)

/-- 20_memory.md section 5: a host read changes nothing of the block, and the same read performed again
right after it returns the same value, also where that value is open. -/
def Obligations.ReadsAreIdempotent : Prop :=
  ∀ s off rest, off.toNat % 4 = 0 → HostNext s (.read off) (.read off :: rest) →
    ∃ t v, step s = .next t ∧ sameBlock s t ∧ t.env.rdata = some v ∧
      (HostNext t (.read off) rest → ReadGives t rest v)
end

