-- ==== Sys2Proof/Laws/Memory.lean ====
section
/-! SUPPORT. The laws of DMEM: what a read gives after each operation, and that every operation keeps the
canonical form and the address bound. -/

namespace Sys2Proof.Machine

@[simp] theorem Memory.read_nil (a : Nat) : Memory.read [] a = none := rfl

theorem Memory.read_cons (b : Nat) (v : Byte) (m : Memory) (a : Nat) :
    Memory.read ((b, v) :: m) a = if a = b then some v else m.read a := rfl

/-- A read after a write of one byte. -/
theorem Memory.read_write (m : Memory) (a : Nat) (v : Byte) (x : Nat) :
    (m.write a v).read x = if x = a then some v else m.read x := by
  induction m with
  | nil => simp [Memory.write, Memory.read_cons]
  | cons c m ih =>
    obtain ⟨b, w⟩ := c
    simp only [Memory.write]
    by_cases h1 : a < b
    · rw [if_pos h1, Memory.read_cons]
    · rw [if_neg h1]
      by_cases h2 : a = b
      · subst h2
        rw [if_pos rfl, Memory.read_cons, Memory.read_cons]
        split_ifs <;> rfl
      · rw [if_neg h2, Memory.read_cons, Memory.read_cons, ih]
        split_ifs <;> first | rfl | omega

/-- A read after a write of consecutive bytes. -/
theorem Memory.read_writeBytes (m : Memory) (a : Nat) (bs : List Byte) (x : Nat) :
    (m.writeBytes a bs).read x =
      if a ≤ x ∧ x < a + bs.length then bs[x - a]? else m.read x := by
  induction bs generalizing m a with
  | nil => simp [Memory.writeBytes]
  | cons b bs ih =>
    simp only [Memory.writeBytes, ih, Memory.read_write, List.length_cons]
    by_cases hx : x = a
    · subst hx; simp
    · by_cases h : a + 1 ≤ x ∧ x < a + 1 + bs.length
      · rw [if_pos h, if_pos (by omega), show x - a = (x - (a + 1)) + 1 by omega]
        simp
      · rw [if_neg h, if_neg hx, if_neg (by omega)]

theorem Memory.read_writeBytes_outside (m : Memory) (a : Nat) (bs : List Byte) (x : Nat)
    (h : x < a ∨ a + bs.length ≤ x) : (m.writeBytes a bs).read x = m.read x := by
  rw [Memory.read_writeBytes, if_neg (by omega)]

theorem Memory.read_writeBytes_inside (m : Memory) (a : Nat) (bs : List Byte) (k : Nat)
    (h : k < bs.length) : (m.writeBytes a bs).read (a + k) = some bs[k] := by
  rw [Memory.read_writeBytes, if_pos (by omega)]
  simp [h]

/-- A read after a range has been set to "no value". -/
theorem Memory.read_eraseRange (m : Memory) (a n x : Nat) :
    (m.eraseRange a n).read x = if a ≤ x ∧ x < a + n then none else m.read x := by
  induction m with
  | nil => simp [Memory.eraseRange]
  | cons c m ih =>
    obtain ⟨b, w⟩ := c
    simp only [Memory.eraseRange] at ih ⊢
    by_cases hb : a ≤ b ∧ b < a + n
    · rw [List.filter_cons_of_neg (by simp [hb]), ih, Memory.read_cons]
      split_ifs <;> first | rfl | omega
    · rw [List.filter_cons_of_pos (by simp; omega), Memory.read_cons, ih, Memory.read_cons]
      split_ifs <;> first | rfl | omega

/-- `MemRead` answers the bytes exactly when every one of them has a value. -/
theorem Memory.readBytes_eq_some (m : Memory) (a n : Nat) (bs : List Byte) :
    m.readBytes a n = some bs ↔ bs.length = n ∧ ∀ k, k < n → m.read (a + k) = bs[k]? := by
  induction n generalizing a bs with
  | zero => cases bs <;> simp [Memory.readBytes]
  | succ n ih =>
    simp only [Memory.readBytes]
    cases h : m.read a with
    | none =>
      simp only [reduceCtorEq, false_iff, not_and, not_forall]
      intro hl
      refine ⟨0, by omega, ?_⟩
      rw [Nat.add_zero, h, List.getElem?_eq_getElem (by omega)]
      simp
    | some b =>
      simp only [Option.map_eq_some_iff]
      constructor
      · rintro ⟨bs', h', rfl⟩
        obtain ⟨hl, hr⟩ := (ih _ _).1 h'
        refine ⟨by simp [hl], fun k hk => ?_⟩
        cases k with
        | zero => simpa using h
        | succ k =>
          rw [show a + (k + 1) = a + 1 + k by omega, hr k (by omega)]
          simp
      · rintro ⟨hl, hr⟩
        cases bs with
        | nil => simp at hl
        | cons c bs =>
          have h0 := hr 0 (by omega)
          simp only [Nat.add_zero, h, List.getElem?_cons_zero, Option.some.injEq] at h0
          subst h0
          refine ⟨bs, (ih _ _).2 ⟨by simpa using hl, fun k hk => ?_⟩, rfl⟩
          rw [show a + 1 + k = a + (k + 1) by omega, hr (k + 1) (by omega)]
          simp

/-- `MemRead` answers nothing exactly when one of the bytes has no value. -/
theorem Memory.readBytes_eq_none (m : Memory) (a n : Nat) :
    m.readBytes a n = none ↔ ∃ k, k < n ∧ m.read (a + k) = none := by
  induction n generalizing a with
  | zero => simp [Memory.readBytes]
  | succ n ih =>
    simp only [Memory.readBytes]
    cases h : m.read a with
    | none => simpa using ⟨0, by omega, h⟩
    | some b =>
      simp only [Option.map_eq_none_iff, ih]
      constructor
      · rintro ⟨k, hk, h'⟩
        exact ⟨k + 1, by omega, by rwa [show a + (k + 1) = a + 1 + k by omega]⟩
      · rintro ⟨k, hk, h'⟩
        cases k with
        | zero => simp [h] at h'
        | succ k => exact ⟨k, by omega, by rwa [show a + 1 + k = a + (k + 1) by omega]⟩

theorem Memory.length_of_readBytes {m : Memory} {a n : Nat} {bs : List Byte}
    (h : m.readBytes a n = some bs) : bs.length = n := ((Memory.readBytes_eq_some ..).1 h).1

/-- Two memories that agree on a range give the same `MemRead` there. -/
theorem Memory.readBytes_congr (m m' : Memory) (a n : Nat)
    (h : ∀ x, a ≤ x → x < a + n → m.read x = m'.read x) : m.readBytes a n = m'.readBytes a n := by
  induction n generalizing a with
  | zero => rfl
  | succ n ih =>
    simp only [Memory.readBytes, h a (by omega) (by omega)]
    rw [ih (a + 1) fun x h1 h2 => h x (by omega) (by omega)]

/-! ### The canonical form -/

theorem Memory.mem_write {m : Memory} {a : Nat} {v : Byte} {c : Host.Cell}
    (h : c ∈ m.write a v) : c = (a, v) ∨ c ∈ m := by
  induction m with
  | nil => simpa [Memory.write] using h
  | cons d m ih =>
    obtain ⟨b, w⟩ := d
    simp only [Memory.write] at h
    split_ifs at h
    · simpa using h
    · rcases List.mem_cons.1 h with h | h
      · exact .inl h
      · exact .inr (List.mem_cons_of_mem _ h)
    · rcases List.mem_cons.1 h with h | h
      · exact .inr (h ▸ List.mem_cons_self)
      · exact (ih h).imp id (List.mem_cons_of_mem _)

theorem Memory.write_wf {m : Memory} (h : m.wf) (a : Nat) (v : Byte) : (m.write a v).wf := by
  induction m with
  | nil => simp [Memory.write, Memory.wf]
  | cons c m ih =>
    obtain ⟨b, w⟩ := c
    obtain ⟨hb, hm⟩ := List.pairwise_cons.1 h
    simp only [Memory.write]
    split_ifs with h1 h2
    · refine List.pairwise_cons.2 ⟨fun d hd => ?_, h⟩
      rcases List.mem_cons.1 hd with rfl | hd
      · exact h1
      · exact lt_trans h1 (hb d hd)
    · subst h2
      exact List.pairwise_cons.2 ⟨hb, hm⟩
    · refine List.pairwise_cons.2 ⟨fun d hd => ?_, ih hm⟩
      rcases Memory.mem_write hd with rfl | hd
      · show b < a
        omega
      · exact hb d hd

theorem Memory.writeBytes_wf {m : Memory} (h : m.wf) (a : Nat) (bs : List Byte) :
    (m.writeBytes a bs).wf := by
  induction bs generalizing m a with
  | nil => exact h
  | cons b bs ih => exact ih (Memory.write_wf h a b) (a + 1)

theorem Memory.eraseRange_wf {m : Memory} (h : m.wf) (a n : Nat) : (m.eraseRange a n).wf :=
  List.Pairwise.filter _ h

theorem Memory.reset_wf : State.reset.dmem.wf := List.Pairwise.nil

theorem Memory.mem_writeBytes {m : Memory} {a : Nat} {bs : List Byte} {c : Host.Cell}
    (h : c ∈ m.writeBytes a bs) : (a ≤ c.1 ∧ c.1 < a + bs.length) ∨ c ∈ m := by
  induction bs generalizing m a with
  | nil => exact .inr h
  | cons b bs ih =>
    simp only [Memory.writeBytes] at h
    simp only [List.length_cons]
    rcases ih h with h | h
    · exact .inl ⟨by omega, by omega⟩
    · rcases Memory.mem_write h with rfl | h
      · exact .inl ⟨le_refl a, by show a < _; omega⟩
      · exact .inr h

theorem Memory.mem_eraseRange {m : Memory} {a n : Nat} {c : Host.Cell}
    (h : c ∈ m.eraseRange a n) : c ∈ m := (List.mem_filter.1 h).1

end Sys2Proof.Machine
end

