-- ==== Sys2Proof/Laws/State.lean ====
section
/-! SUPPORT. One lemma per component and update of the state, so that no proof unfolds a record update. -/

namespace Sys2Proof.Machine

/-! ### setCrcRes -/

@[simp] theorem State.setCrcRes_cfg (s : State) (w : Word) :
    (s.setCrcRes w).cfg = s.cfg := rfl

@[simp] theorem State.setCrcRes_regs (s : State) (w : Word) :
    (s.setCrcRes w).regs = { s.regs with crcRes := w } := rfl

@[simp] theorem State.setCrcRes_blk (s : State) (w : Word) :
    (s.setCrcRes w).blk = s.blk := rfl

@[simp] theorem State.setCrcRes_dmem (s : State) (w : Word) :
    (s.setCrcRes w).dmem = s.dmem := rfl

@[simp] theorem State.setCrcRes_eng (s : State) (w : Word) :
    (s.setCrcRes w).eng = s.eng := rfl

@[simp] theorem State.setCrcRes_env (s : State) (w : Word) :
    (s.setCrcRes w).env = s.env := rfl

/-! ### setOut -/

@[simp] theorem State.setOut_cfg (s : State) (bits bytes : Word) :
    (s.setOut bits bytes).cfg = s.cfg := rfl

@[simp] theorem State.setOut_regs (s : State) (bits bytes : Word) :
    (s.setOut bits bytes).regs = { s.regs with outBits := bits, outBytes := bytes } := rfl

@[simp] theorem State.setOut_blk (s : State) (bits bytes : Word) :
    (s.setOut bits bytes).blk = s.blk := rfl

@[simp] theorem State.setOut_dmem (s : State) (bits bytes : Word) :
    (s.setOut bits bytes).dmem = s.dmem := rfl

@[simp] theorem State.setOut_eng (s : State) (bits bytes : Word) :
    (s.setOut bits bytes).eng = s.eng := rfl

@[simp] theorem State.setOut_env (s : State) (bits bytes : Word) :
    (s.setOut bits bytes).env = s.env := rfl

/-! ### setPayloadAddr -/

@[simp] theorem State.setPayloadAddr_cfg (s : State) (a : Word) :
    (s.setPayloadAddr a).cfg = s.cfg := rfl

@[simp] theorem State.setPayloadAddr_regs (s : State) (a : Word) :
    (s.setPayloadAddr a).regs = { s.regs with payloadAddr := a } := rfl

@[simp] theorem State.setPayloadAddr_blk (s : State) (a : Word) :
    (s.setPayloadAddr a).blk = s.blk := rfl

@[simp] theorem State.setPayloadAddr_dmem (s : State) (a : Word) :
    (s.setPayloadAddr a).dmem = s.dmem := rfl

@[simp] theorem State.setPayloadAddr_eng (s : State) (a : Word) :
    (s.setPayloadAddr a).eng = s.eng := rfl

@[simp] theorem State.setPayloadAddr_env (s : State) (a : Word) :
    (s.setPayloadAddr a).env = s.env := rfl

/-! ### setFpNonfinite -/

@[simp] theorem State.setFpNonfinite_cfg (s : State) (b : Bool) :
    (s.setFpNonfinite b).cfg = s.cfg := rfl

@[simp] theorem State.setFpNonfinite_regs (s : State) (b : Bool) :
    (s.setFpNonfinite b).regs = { s.regs with status := { s.regs.status with fpNonfinite := b } } := rfl

@[simp] theorem State.setFpNonfinite_blk (s : State) (b : Bool) :
    (s.setFpNonfinite b).blk = s.blk := rfl

@[simp] theorem State.setFpNonfinite_dmem (s : State) (b : Bool) :
    (s.setFpNonfinite b).dmem = s.dmem := rfl

@[simp] theorem State.setFpNonfinite_eng (s : State) (b : Bool) :
    (s.setFpNonfinite b).eng = s.eng := rfl

@[simp] theorem State.setFpNonfinite_env (s : State) (b : Bool) :
    (s.setFpNonfinite b).env = s.env := rfl

/-! ### useDraws -/

@[simp] theorem State.useDraws_cfg (s : State) (n : Nat) :
    (s.useDraws n).cfg = s.cfg := rfl

@[simp] theorem State.useDraws_regs (s : State) (n : Nat) :
    (s.useDraws n).regs = s.regs := rfl

@[simp] theorem State.useDraws_blk (s : State) (n : Nat) :
    (s.useDraws n).blk = s.blk := rfl

@[simp] theorem State.useDraws_dmem (s : State) (n : Nat) :
    (s.useDraws n).dmem = s.dmem := rfl

@[simp] theorem State.useDraws_eng (s : State) (n : Nat) :
    (s.useDraws n).eng = s.eng := rfl

@[simp] theorem State.useDraws_env (s : State) (n : Nat) :
    (s.useDraws n).env = { s.env with draws := s.env.draws + n } := rfl

/-! ### writeBlock -/

@[simp] theorem State.writeBlock_cfg (s : State) (x : Block) :
    (s.writeBlock x).cfg = s.cfg := rfl

@[simp] theorem State.writeBlock_regs (s : State) (x : Block) :
    (s.writeBlock x).regs = s.regs := rfl

@[simp] theorem State.writeBlock_blk (s : State) (x : Block) :
    (s.writeBlock x).blk = blkOfBlock x := rfl

@[simp] theorem State.writeBlock_dmem (s : State) (x : Block) :
    (s.writeBlock x).dmem = s.dmem := rfl

@[simp] theorem State.writeBlock_eng (s : State) (x : Block) :
    (s.writeBlock x).eng = s.eng := rfl

@[simp] theorem State.writeBlock_env (s : State) (x : Block) :
    (s.writeBlock x).env = s.env := rfl

/-! ### writeMem -/

@[simp] theorem State.writeMem_cfg (s : State) (a : Nat) (bs : List Byte) :
    (s.writeMem a bs).cfg = s.cfg := rfl

@[simp] theorem State.writeMem_regs (s : State) (a : Nat) (bs : List Byte) :
    (s.writeMem a bs).regs = s.regs := rfl

@[simp] theorem State.writeMem_blk (s : State) (a : Nat) (bs : List Byte) :
    (s.writeMem a bs).blk = s.blk := rfl

@[simp] theorem State.writeMem_dmem (s : State) (a : Nat) (bs : List Byte) :
    (s.writeMem a bs).dmem = s.dmem.writeBytes a bs := rfl

@[simp] theorem State.writeMem_eng (s : State) (a : Nat) (bs : List Byte) :
    (s.writeMem a bs).eng = s.eng := rfl

@[simp] theorem State.writeMem_env (s : State) (a : Nat) (bs : List Byte) :
    (s.writeMem a bs).env = s.env := rfl

/-! ### latch -/

@[simp] theorem State.latch_cfg (s : State) (w : Word) :
    (s.latch w).cfg = s.cfg := rfl

@[simp] theorem State.latch_regs (s : State) (w : Word) :
    (s.latch w).regs = { s.regs with cmd := w, errInfo := 0, status := s.regs.status.atAcceptance } := rfl

@[simp] theorem State.latch_blk (s : State) (w : Word) :
    (s.latch w).blk = s.blk := rfl

@[simp] theorem State.latch_dmem (s : State) (w : Word) :
    (s.latch w).dmem = s.dmem := rfl

@[simp] theorem State.latch_eng (s : State) (w : Word) :
    (s.latch w).eng = ⟨true, w, s.regs.arg0, s.regs.arg1, s.regs.arg2⟩ := rfl

@[simp] theorem State.latch_env (s : State) (w : Word) :
    (s.latch w).env = s.env := rfl

/-! ### accept -/

@[simp] theorem State.accept_cfg (s : State) (w : Word) :
    (s.accept w).cfg = s.cfg := rfl

@[simp] theorem State.accept_regs (s : State) (w : Word) :
    (s.accept w).regs = { s.regs with cmd := w, errInfo := 0, status := s.regs.status.atAcceptance } := rfl

@[simp] theorem State.accept_blk (s : State) (w : Word) :
    (s.accept w).blk = s.blk := rfl

@[simp] theorem State.accept_dmem (s : State) (w : Word) :
    (s.accept w).dmem = s.dmem := rfl

@[simp] theorem State.accept_eng (s : State) (w : Word) :
    (s.accept w).eng = ⟨true, w, s.regs.arg0, s.regs.arg1, s.regs.arg2⟩ := rfl

@[simp] theorem State.accept_env (s : State) (w : Word) :
    (s.accept w).env = { s.env with delay := Config.engineDelay s.env.draws } := rfl

/-! ### complete -/

@[simp] theorem State.complete_cfg (s : State) (code : ErrCode) (info : Word) :
    (s.complete code info).cfg = s.cfg := rfl

@[simp] theorem State.complete_regs (s : State) (code : ErrCode) (info : Word) :
    (s.complete code info).regs = { s.regs with status := s.regs.status.atCompletion code, errInfo := info } := rfl

@[simp] theorem State.complete_blk (s : State) (code : ErrCode) (info : Word) :
    (s.complete code info).blk = s.blk := rfl

@[simp] theorem State.complete_dmem (s : State) (code : ErrCode) (info : Word) :
    (s.complete code info).dmem = s.dmem := rfl

@[simp] theorem State.complete_eng (s : State) (code : ErrCode) (info : Word) :
    (s.complete code info).eng = { s.eng with pending := false } := rfl

@[simp] theorem State.complete_env (s : State) (code : ErrCode) (info : Word) :
    (s.complete code info).env = s.env := rfl

/-! ### writeStatus -/

@[simp] theorem State.writeStatus_cfg (s : State) (v : Word) :
    (s.writeStatus v).cfg = s.cfg := rfl

@[simp] theorem State.writeStatus_regs (s : State) (v : Word) :
    (s.writeStatus v).regs = { s.regs with status := s.regs.status.writeOneToClear v } := rfl

@[simp] theorem State.writeStatus_blk (s : State) (v : Word) :
    (s.writeStatus v).blk = s.blk := rfl

@[simp] theorem State.writeStatus_dmem (s : State) (v : Word) :
    (s.writeStatus v).dmem = s.dmem := rfl

@[simp] theorem State.writeStatus_eng (s : State) (v : Word) :
    (s.writeStatus v).eng = s.eng := rfl

@[simp] theorem State.writeStatus_env (s : State) (v : Word) :
    (s.writeStatus v).env = s.env := rfl

/-! ### noteBusyWrite -/

@[simp] theorem State.noteBusyWrite_cfg (s : State) :
    (s.noteBusyWrite).cfg = s.cfg := rfl

@[simp] theorem State.noteBusyWrite_regs (s : State) :
    (s.noteBusyWrite).regs = { s.regs with status := { s.regs.status with busyWr := true } } := rfl

@[simp] theorem State.noteBusyWrite_blk (s : State) :
    (s.noteBusyWrite).blk = s.blk := rfl

@[simp] theorem State.noteBusyWrite_dmem (s : State) :
    (s.noteBusyWrite).dmem = s.dmem := rfl

@[simp] theorem State.noteBusyWrite_eng (s : State) :
    (s.noteBusyWrite).eng = s.eng := rfl

@[simp] theorem State.noteBusyWrite_env (s : State) :
    (s.noteBusyWrite).env = s.env := rfl

/-! ### popTodo -/

@[simp] theorem State.popTodo_cfg (s : State) (rest : List HostStmt) :
    (s.popTodo rest).cfg = s.cfg := rfl

@[simp] theorem State.popTodo_regs (s : State) (rest : List HostStmt) :
    (s.popTodo rest).regs = s.regs := rfl

@[simp] theorem State.popTodo_blk (s : State) (rest : List HostStmt) :
    (s.popTodo rest).blk = s.blk := rfl

@[simp] theorem State.popTodo_dmem (s : State) (rest : List HostStmt) :
    (s.popTodo rest).dmem = s.dmem := rfl

@[simp] theorem State.popTodo_eng (s : State) (rest : List HostStmt) :
    (s.popTodo rest).eng = s.eng := rfl

@[simp] theorem State.popTodo_env (s : State) (rest : List HostStmt) :
    (s.popTodo rest).env = { s.env with todo := rest, delay := s.env.delay - 1 } := rfl

/-! ### hostRead -/

@[simp] theorem State.hostRead_cfg (s : State) (off : Offset) :
    (s.hostRead off).cfg = s.cfg := rfl

@[simp] theorem State.hostRead_regs (s : State) (off : Offset) :
    (s.hostRead off).regs = s.regs := rfl

@[simp] theorem State.hostRead_blk (s : State) (off : Offset) :
    (s.hostRead off).blk = s.blk := rfl

@[simp] theorem State.hostRead_dmem (s : State) (off : Offset) :
    (s.hostRead off).dmem = s.dmem := rfl

@[simp] theorem State.hostRead_eng (s : State) (off : Offset) :
    (s.hostRead off).eng = s.eng := rfl

@[simp] theorem State.hostRead_env (s : State) (off : Offset) :
    (s.hostRead off).env = { s.env with rdata := some (s.readWindow off) } := rfl

/-! ### recordHeader -/

@[simp] theorem State.recordHeader_cfg (s : State) (h : Header) :
    (s.recordHeader h).cfg = s.cfg := rfl

@[simp] theorem State.recordHeader_blk (s : State) (h : Header) :
    (s.recordHeader h).blk = s.blk := rfl

@[simp] theorem State.recordHeader_dmem (s : State) (h : Header) :
    (s.recordHeader h).dmem = s.dmem := rfl

@[simp] theorem State.recordHeader_eng (s : State) (h : Header) :
    (s.recordHeader h).eng = s.eng := rfl

@[simp] theorem State.recordHeader_env (s : State) (h : Header) :
    (s.recordHeader h).env = s.env := rfl

@[simp] theorem State.recordHeader_regs_hdrMagic (s : State) (h : Header) :
    (s.recordHeader h).regs.hdrMagic = h.magic := rfl

@[simp] theorem State.recordHeader_regs_hdrVersion (s : State) (h : Header) :
    (s.recordHeader h).regs.hdrVersion = h.version.setWidth 32 := rfl

@[simp] theorem State.recordHeader_regs_hdrScheme (s : State) (h : Header) :
    (s.recordHeader h).regs.hdrScheme = h.scheme.setWidth 32 := rfl

@[simp] theorem State.recordHeader_regs_hdrRsvd (s : State) (h : Header) :
    (s.recordHeader h).regs.hdrRsvd = h.rsvd.setWidth 32 := rfl

@[simp] theorem State.recordHeader_regs_hdrLen (s : State) (h : Header) :
    (s.recordHeader h).regs.hdrLen = h.len := rfl

@[simp] theorem State.recordHeader_regs_hdrCrc (s : State) (h : Header) :
    (s.recordHeader h).regs.hdrCrc = h.crc := rfl

@[simp] theorem State.recordHeader_regs_ctrlIe (s : State) (h : Header) :
    (s.recordHeader h).regs.ctrlIe = s.regs.ctrlIe := rfl

@[simp] theorem State.recordHeader_regs_cmd (s : State) (h : Header) :
    (s.recordHeader h).regs.cmd = s.regs.cmd := rfl

@[simp] theorem State.recordHeader_regs_errInfo (s : State) (h : Header) :
    (s.recordHeader h).regs.errInfo = s.regs.errInfo := rfl

@[simp] theorem State.recordHeader_regs_arg0 (s : State) (h : Header) :
    (s.recordHeader h).regs.arg0 = s.regs.arg0 := rfl

@[simp] theorem State.recordHeader_regs_arg1 (s : State) (h : Header) :
    (s.recordHeader h).regs.arg1 = s.regs.arg1 := rfl

@[simp] theorem State.recordHeader_regs_arg2 (s : State) (h : Header) :
    (s.recordHeader h).regs.arg2 = s.regs.arg2 := rfl

@[simp] theorem State.recordHeader_regs_crcRes (s : State) (h : Header) :
    (s.recordHeader h).regs.crcRes = s.regs.crcRes := rfl

@[simp] theorem State.recordHeader_regs_payloadAddr (s : State) (h : Header) :
    (s.recordHeader h).regs.payloadAddr = s.regs.payloadAddr := rfl

@[simp] theorem State.recordHeader_regs_outBits (s : State) (h : Header) :
    (s.recordHeader h).regs.outBits = s.regs.outBits := rfl

@[simp] theorem State.recordHeader_regs_outBytes (s : State) (h : Header) :
    (s.recordHeader h).regs.outBytes = s.regs.outBytes := rfl

@[simp] theorem State.recordHeader_regs_status (s : State) (h : Header) :
    (s.recordHeader h).regs.status = { s.regs.status with
      hdrVerMismatch := h.version != s.cfg.version
      hdrSchemeUnsup := h.scheme != 1
      hdrRsvdNz := h.rsvd != 0 } := rfl

/-! ### writeHalf -/

@[simp] theorem State.writeHalf_cfg (s : State) (k : Fin 64) (hi : Bool) (v : Word) :
    (s.writeHalf k hi v).cfg = s.cfg := rfl

@[simp] theorem State.writeHalf_regs (s : State) (k : Fin 64) (hi : Bool) (v : Word) :
    (s.writeHalf k hi v).regs = s.regs := rfl

@[simp] theorem State.writeHalf_dmem (s : State) (k : Fin 64) (hi : Bool) (v : Word) :
    (s.writeHalf k hi v).dmem = s.dmem := rfl

@[simp] theorem State.writeHalf_eng (s : State) (k : Fin 64) (hi : Bool) (v : Word) :
    (s.writeHalf k hi v).eng = s.eng := rfl

@[simp] theorem State.writeHalf_env (s : State) (k : Fin 64) (hi : Bool) (v : Word) :
    (s.writeHalf k hi v).env = s.env := rfl

/-! ### dropCells, softReset, powerCycle -/

@[simp] theorem State.dropCells_cfg (s : State) (c : AbortCells) :
    (s.dropCells c).cfg = s.cfg := by
  cases c <;> rfl

@[simp] theorem State.dropCells_regs (s : State) (c : AbortCells) :
    (s.dropCells c).regs = s.regs := by
  cases c <;> rfl

@[simp] theorem State.dropCells_eng (s : State) (c : AbortCells) :
    (s.dropCells c).eng = s.eng := by
  cases c <;> rfl

@[simp] theorem State.dropCells_env (s : State) (c : AbortCells) :
    (s.dropCells c).env = s.env := by
  cases c <;> rfl

@[simp] theorem State.softReset_cfg (s : State) : s.softReset.cfg = s.cfg := by
  simp only [State.softReset]
  split <;> simp

@[simp] theorem State.softReset_env (s : State) : s.softReset.env = s.env := by
  simp only [State.softReset]
  split <;> simp

@[simp] theorem State.softReset_regs (s : State) : s.softReset.regs = Regs.reset := rfl

@[simp] theorem State.softReset_eng (s : State) : s.softReset.eng = Engine.reset := rfl

@[simp] theorem State.powerCycle_cfg (s : State) : s.powerCycle.cfg = s.cfg := rfl

@[simp] theorem State.powerCycle_regs (s : State) : s.powerCycle.regs = Regs.reset := rfl

@[simp] theorem State.powerCycle_blk (s : State) : s.powerCycle.blk = Vector.replicate 64 BlkElem.noValue := rfl

@[simp] theorem State.powerCycle_dmem (s : State) : s.powerCycle.dmem = [] := rfl

@[simp] theorem State.powerCycle_eng (s : State) : s.powerCycle.eng = Engine.reset := rfl

@[simp] theorem State.powerCycle_env (s : State) : s.powerCycle.env = s.env := rfl

end Sys2Proof.Machine
end

