-- ==== Sys2Proof/Laws/Operations.lean ====
section
/-! SUPPORT. For each shared operation one lemma that says all it can do, which proofs cite instead of
unfolding it. -/

namespace Sys2Proof.Machine

/-! ### Outcomes -/

theorem succeed_eq (s : State) : succeed s = .next (s.complete .none 0) := rfl

theorem raiseErr_eq (e : CmdError) (s : State) : raiseErr e s = .next (s.complete e.code e.info) := rfl

/-! ### Predicates on operands -/

theorem inRange_iff (c : Config) (a n : Nat) : inRange c a n = true ↔ a + n ≤ c.dmemSize := by
  simp [inRange]

theorem overlap_iff (a n b p : Nat) :
    overlap a n b p = true ↔ 0 < n ∧ 0 < p ∧ a < b + p ∧ b < a + n := by
  simp [overlap, and_assoc]

theorem nbytes_le_iff (n b : Nat) : nbytes n ≤ b ↔ n ≤ 8 * b := by
  unfold nbytes; omega

/-! ### BLK -/

theorem BlkElem.bits_ofBits (x : F64) : (BlkElem.ofBits x).bits = x := by
  simp only [BlkElem.ofBits, BlkElem.bits, Option.getD_some]
  apply BitVec.eq_of_getLsbD_eq
  intro i hi
  simp only [BitVec.getLsbD_append, BitVec.getLsbD_extractLsb']
  by_cases h : i < 32
  · simp [h]
  · simp [h, show i - 32 < 32 by omega, show 32 + (i - 32) = i by omega]

@[simp] theorem BlkElem.hasValue_ofBits (x : F64) : (BlkElem.ofBits x).hasValue = true := rfl

@[simp] theorem blkOfBlock_get (x : Block) (k : Fin 64) :
    (blkOfBlock x)[k] = BlkElem.ofBits x[k] := by
  unfold blkOfBlock
  simp

@[simp] theorem blockOfBlk_get (b : Vector BlkElem 64) (k : Fin 64) :
    (blockOfBlk b)[k] = (b[k]).bits := by
  unfold blockOfBlk
  simp

theorem all_hasValue_iff (b : Vector BlkElem 64) :
    b.toList.all BlkElem.hasValue = true ↔ ∀ k : Fin 64, (b[k]).hasValue = true := by
  rw [List.all_eq_true]
  constructor
  · intro h k
    exact h _ (by simp)
  · intro h x hx
    obtain ⟨i, hi, rfl⟩ := List.mem_iff_getElem.1 hx
    have := h ⟨i, by simpa using hi⟩
    simpa using this

/-- `readBlock` answers the 64 encodings exactly when every element has a value. -/
theorem State.readBlock_eq_some (s : State) (x : Block) :
    s.readBlock = some x ↔
      (∀ k : Fin 64, (s.blk[k]).hasValue = true) ∧ x = blockOfBlk s.blk := by
  unfold State.readBlock
  split_ifs with h
  · rw [all_hasValue_iff] at h
    simp only [Option.some.injEq]
    exact ⟨fun e => ⟨h, e.symm⟩, fun e => e.2.symm⟩
  · rw [all_hasValue_iff] at h
    exact ⟨fun e => by simp at e, fun e => absurd e.1 h⟩

theorem State.readBlock_eq_none (s : State) :
    s.readBlock = none ↔ ∃ k : Fin 64, (s.blk[k]).hasValue = false := by
  unfold State.readBlock
  split_ifs with h
  · rw [all_hasValue_iff] at h
    refine ⟨fun e => by simp at e, fun ⟨k, hk⟩ => ?_⟩
    rw [h k] at hk
    simp at hk
  · rw [all_hasValue_iff] at h
    simpa using h

/-! ### Transforms -/

theorem blockAt_blockOf (g : Fin 8 → Fin 8 → F64) (r c : Fin 8) : blockAt (blockOf g) r c = g r c := by
  have h1 : (8 * r.val + c.val) / 8 = r.val := by omega
  have h2 : (8 * r.val + c.val) % 8 = c.val := by omega
  simp [blockAt, blockOf, h1, h2]

/-- Everything FDCT and IDCT can do. -/
theorem runTransform_cases (i : Instr) (ref : CosTable → Block → Block) (impl : Block → Block)
    (s : State) :
    (∃ x, s.readBlock = some x ∧ runTransform i ref impl s = .next
      ((((s.writeBlock (transformResult s.cfg s.env.draws ref impl x)).setFpNonfinite
        (anyNonfinite x || anyNonfinite (transformResult s.cfg s.env.draws ref impl x))).useDraws
        64).complete .none 0)) ∨
    (s.readBlock = none ∧ runTransform i ref impl s = .fault (.blkNoValue i)) := by
  unfold runTransform
  cases h : s.readBlock with
  | none => exact .inr ⟨rfl, rfl⟩
  | some x => exact .inl ⟨x, rfl, rfl⟩

/-! ### Bit streams and the repetition code -/

/-- One bit of the fold that builds a packed byte. -/
theorem foldl_or_shift_getLsbD (cond : Nat → Bool) (l : List Nat) (b : Byte) (i : Nat) (hi : i < 8) :
    (l.foldl (fun byte t => if cond t then byte ||| ((1#8) <<< (7 - t)) else byte) b).getLsbD i =
      (b.getLsbD i || l.any fun t => cond t && decide (i = 7 - t)) := by
  induction l generalizing b with
  | nil => simp
  | cons t l ih =>
    rw [List.foldl_cons, ih, List.any_cons]
    have hbit : ((1#8) <<< (7 - t)).getLsbD i = decide (i = 7 - t) := by
      have ht : 7 - t < 8 := by omega
      generalize 7 - t = k at ht ⊢
      interval_cases k <;> interval_cases i <;> rfl
    cases h : cond t <;> simp [hbit, Bool.or_assoc]

/-- One bit of a packed byte. -/
theorem packByte_getLsbD (n : Nat) (bit : Nat → Bool) (j i : Nat) (hi : i < 8) :
    (packByte n bit j).getLsbD (7 - i) = (decide (8 * j + i < n) && bit (8 * j + i)) := by
  unfold packByte
  rw [foldl_or_shift_getLsbD (fun t => decide (8 * j + t < n) && bit (8 * j + t)) _ _ _ (by omega)]
  interval_cases i <;> simp [List.range, List.range.loop]

theorem packBits_length (n : Nat) (bit : Nat → Bool) : (packBits n bit).length = nbytes n := by
  simp [packBits]

/-- The stream that `BitsWrite` writes reads back as its bits, and 0 in the padding. -/
theorem streamBit_packBits (n : Nat) (bit : Nat → Bool) (k : Nat) (hk : k < 8 * nbytes n) :
    streamBit (packBits n bit) k = (decide (k < n) && bit k) := by
  have hj : k / 8 < nbytes n := by omega
  have : (packBits n bit).getD (k / 8) 0 = packByte n bit (k / 8) := by
    simp [packBits, List.getD, hj]
  rw [streamBit, this, packByte_getLsbD _ _ _ _ (Nat.mod_lt _ (by decide)), Nat.div_add_mod]

/-- The REP3 checks pass exactly when both ranges are in DMEM and do not overlap. -/
theorem rep3Check_eq_ok (c : Config) (p q : Rep3Plan) :
    rep3Check c p = .ok q ↔ p = q ∧ p.src + p.nbIn ≤ c.dmemSize ∧ p.dst + p.nbOut ≤ c.dmemSize ∧
      overlap p.src p.nbIn p.dst p.nbOut = false := by
  unfold rep3Check
  by_cases h1 : p.src + p.nbIn ≤ c.dmemSize
  · by_cases h2 : p.dst + p.nbOut ≤ c.dmemSize
    · cases h3 : overlap p.src p.nbIn p.dst p.nbOut <;> simp [inRange, h1, h2]
    · simp [inRange, h1, h2]
  · simp [inRange, h1]

/-- Everything a REP3 command can do. -/
theorem runRep3_cases (i : Instr) (check : Except CmdError Rep3Plan) (bit : List Byte → Nat → Bool)
    (s : State) :
    (∃ e, check = .error e ∧ runRep3 i check bit s = .next (s.complete e.code e.info)) ∨
    (∃ p, check = .ok p ∧ s.dmem.readBytes p.src p.nbIn = none ∧
      runRep3 i check bit s = .fault (.dmemNoValue i)) ∨
    (∃ p bs, check = .ok p ∧ s.dmem.readBytes p.src p.nbIn = some bs ∧
      runRep3 i check bit s = .next
        (((s.writeMem p.dst (packBits p.nOut (bit bs))).setOut (BitVec.ofNat 32 p.nOut)
          (BitVec.ofNat 32 p.nbOut)).complete .none 0)) := by
  unfold runRep3
  cases check with
  | error e => exact .inl ⟨e, rfl, rfl⟩
  | ok p =>
    right
    simp only
    cases h : s.dmem.readBytes p.src p.nbIn with
    | none => exact .inl ⟨p, rfl, h, rfl⟩
    | some bs => exact .inr ⟨p, bs, rfl, h, rfl⟩

/-! ### Frames -/

theorem Header.toBytes_length (h : Header) : h.toBytes.length = 16 := rfl

/-- HDR_BUILD's checks pass exactly under the three conditions of its rule. -/
theorem hdrBuildCheck_eq_ok (s : State) :
    hdrBuildCheck s = .ok () ↔ s.operandMbzZero = true ∧ s.operandScheme = 1 ∧
      s.operand0 + (16 + s.operand1) ≤ s.cfg.dmemSize := by
  unfold hdrBuildCheck
  split_ifs <;> simp_all [inRange]

/-- Everything HDR_PARSE can do once the header is read. -/
theorem parseFrom_cases (h : Header) (s : State) :
    (h.magic ≠ magicWord s.cfg ∧
      parseFrom h s = .next (s.complete .invalidMagic h.magic)) ∨
    (h.magic = magicWord s.cfg ∧ s.operand1 < 16 + h.len.toNat ∧
      parseFrom h s = .next (s.complete .invalidLength h.len)) ∨
    (h.magic = magicWord s.cfg ∧ 16 + h.len.toNat ≤ s.operand1 ∧
      ((s.dmem.readBytes (s.operand0 + 16) h.len.toNat = none ∧
          parseFrom h s = .fault (.dmemNoValue .hdrParse)) ∨
        ∃ payload, s.dmem.readBytes (s.operand0 + 16) h.len.toNat = some payload ∧
          ((crc32 payload ≠ h.crc ∧ parseFrom h s = .next
              ((s.setCrcRes (crc32 payload)).complete .crcMismatch (crc32 payload))) ∨
            (crc32 payload = h.crc ∧ parseFrom h s = .next
              ((((s.setCrcRes (crc32 payload)).setPayloadAddr
                (BitVec.ofNat 32 (s.operand0 + 16))).setOut 0 h.len).complete .none 0))))) := by
  unfold parseFrom
  by_cases hm : h.magic = magicWord s.cfg
  · by_cases hl : s.operand1 < 16 + h.len.toNat
    · right; left
      exact ⟨hm, hl, by simp [hm, hl, raiseErr_eq]⟩
    · right; right
      refine ⟨hm, by omega, ?_⟩
      simp only [hm, bne_self_eq_false, Bool.false_eq_true, if_false, gt_iff_lt, if_neg hl]
      cases hr : s.dmem.readBytes (s.operand0 + 16) h.len.toNat with
      | none => exact .inl ⟨rfl, rfl⟩
      | some payload =>
        refine .inr ⟨payload, rfl, ?_⟩
        by_cases hc : crc32 payload = h.crc
        · exact .inr ⟨hc, by simp [hc, succeed_eq]⟩
        · exact .inl ⟨hc, by simp [hc, raiseErr_eq]⟩
  · exact .inl ⟨hm, by simp [hm, raiseErr_eq]⟩

/-! ### The window -/

/-- A DMEM word is within DMEM when the instance is legal: DMEM_SIZE is a multiple of 4. -/
theorem dmemWord_inside (c : Config) (hc : c.legal = true) (a : Nat) (ha : a < c.dmemSize)
    (h4 : a % 4 = 0) : a + 4 ≤ c.dmemSize := by
  simp only [Config.legal, Bool.and_eq_true, decide_eq_true_eq] at hc
  have : c.dmemSize = 4 * 2 ^ (c.dmemLog2 - 2) := by
    rw [Config.dmemSize, show (4 : Nat) = 2 ^ 2 by rfl, ← pow_add]
    congr 1
    omega
  omega

/-- Everything a window write can do to the state, place by place. -/
theorem State.writePlace_cases (s : State) (v : Word) (p : Place) :
    s.writePlace v p = s ∨ (s.busy = true ∧ s.writePlace v p = s.noteBusyWrite) ∨
    s.writePlace v p = s.writeCtrl v ∨ s.writePlace v p = s.writeStatus v ∨
    (s.busy = false ∧ s.writePlace v p = s.accept v) ∨
    (s.busy = false ∧ ∃ x y z, s.writePlace v p =
      { s with regs := { s.regs with arg0 := x, arg1 := y, arg2 := z } }) ∨
    (s.busy = false ∧ ∃ k hi, s.writePlace v p = s.writeHalf k hi v) ∨
    (s.busy = false ∧ ∃ a, p = .dmem a ∧ s.writePlace v p = s.writeMem a (laneBytes v)) := by
  cases p with
  | cosrom k hi => exact .inl rfl
  | reserved => exact .inl rfl
  | blk k hi =>
    cases hb : s.busy
    · exact .inr (.inr (.inr (.inr (.inr (.inr (.inl ⟨rfl, k, hi, by
        simp [State.writePlace, whenIdle, hb]⟩))))))
    · exact .inr (.inl ⟨rfl, by simp [State.writePlace, whenIdle, hb]⟩)
  | dmem a =>
    cases hb : s.busy
    · exact .inr (.inr (.inr (.inr (.inr (.inr (.inr ⟨rfl, a, rfl, by
        simp [State.writePlace, whenIdle, hb]⟩))))))
    · exact .inr (.inl ⟨rfl, by simp [State.writePlace, whenIdle, hb]⟩)
  | reg r =>
    cases r <;> first
      | exact .inl rfl
      | exact .inr (.inr (.inl rfl))
      | exact .inr (.inr (.inr (.inl rfl)))
      | (cases hb : s.busy
         · first
           | exact .inr (.inr (.inr (.inr (.inl ⟨rfl, by
               simp only [State.writePlace, State.writeReg, whenIdle, hb]; rfl⟩))))
           | exact .inr (.inr (.inr (.inr (.inr (.inl ⟨rfl, v, s.regs.arg1, s.regs.arg2, by
               simp only [State.writePlace, State.writeReg, whenIdle, hb]; rfl⟩)))))
           | exact .inr (.inr (.inr (.inr (.inr (.inl ⟨rfl, s.regs.arg0, v, s.regs.arg2, by
               simp only [State.writePlace, State.writeReg, whenIdle, hb]; rfl⟩)))))
           | exact .inr (.inr (.inr (.inr (.inr (.inl ⟨rfl, s.regs.arg0, s.regs.arg1, v, by
               simp only [State.writePlace, State.writeReg, whenIdle, hb]; rfl⟩)))))
         · exact .inr (.inl ⟨rfl, by simp [State.writePlace, State.writeReg, whenIdle, hb]⟩))

end Sys2Proof.Machine
end

