-- ==== Sys2Proof/Laws/PerInstr.lean ====
section
/-! SUPPORT. The facts stated once for each command: its word is well formed. -/

namespace Sys2Proof.Laws.CommandWord

/-- The command is well formed and its word selects a command (30_encoding.md R74). -/
def Statement (i : Instr) : Prop := i.wellFormed = true ∧ Word.selectsCommand (encode i) = true

theorem nop : Statement .nop := by unfold Statement; decide
theorem fdct : Statement .fdct := by unfold Statement; decide
theorem idct : Statement .idct := by unfold Statement; decide
theorem rep3Enc : Statement .rep3Enc := by unfold Statement; decide
theorem rep3Dec : Statement .rep3Dec := by unfold Statement; decide
theorem crc32 : Statement .crc32 := by unfold Statement; decide
theorem hdrBuild : Statement .hdrBuild := by unfold Statement; decide
theorem hdrParse : Statement .hdrParse := by unfold Statement; decide

end Sys2Proof.Laws.CommandWord
end

