-- ==== Sys2Proof/Laws/Step.lean ====
section
/-! SUPPORT. All that one step can be, said once, and how a run goes on from its first step. -/

namespace Sys2Proof.Machine

theorem State.engineTurn_iff (s : State) :
    s.engineTurn = true ↔ s.eng.pending = true ∧ s.env.delay = 0 ∧ s.env.todo ≠ [] := by
  simp [State.engineTurn, and_assoc]

/-- The engine's step, or the host's next statement, or no change because the host has nothing left to do
(70_reset_and_hazards.md R153, R155; 60_exceptions.md R142). -/
theorem step_cases (s : State) :
    (s.engineTurn = true ∧ step s = engineStep s) ∨
    (s.engineTurn = false ∧ ∃ h rest, s.env.todo = h :: rest ∧ step s = hostStmt h (s.popTodo rest)) ∨
    (s.env.todo = [] ∧ step s = .next s) := by
  cases he : s.engineTurn with
  | true => exact .inl ⟨rfl, by simp [step, he]⟩
  | false =>
    cases ht : s.env.todo with
    | nil => exact .inr (.inr ⟨rfl, by simp [step, he, hostTurn, ht]⟩)
    | cons h rest => exact .inr (.inl ⟨rfl, h, rest, rfl, by simp [step, he, hostTurn, ht]⟩)

/-- The engine's step runs the decoded command or completes with ILLEGAL_CMD (30_encoding.md R75). -/
theorem engineStep_cases (s : State) :
    (∃ i, decode s.eng.lcmd = .ok i ∧ engineStep s = exec i s) ∨
    (∃ e, decode s.eng.lcmd = .error e ∧
      engineStep s = .next (s.complete .illegalCmd s.eng.lcmd)) := by
  unfold engineStep
  cases h : decode s.eng.lcmd with
  | ok i => exact .inl ⟨i, rfl, rfl⟩
  | error e => exact .inr ⟨e, rfl, rfl⟩

theorem reaches_zero (s t : State) : Reaches 0 s t ↔ t = s := by
  constructor
  · intro h; cases h; rfl
  · rintro rfl; rfl

/-- A run of `k + 1` steps is a first step and a run of `k`. -/
theorem reaches_succ (k : Nat) (s t : State) :
    Reaches (k + 1) s t ↔ ∃ u, step s = .next u ∧ Reaches k u t := by
  have run_succ := Host.Core.run.eq_2 Sys2Proof.core s k
  have same_step : Sys2Proof.core.step s = step s := rfl
  rw [same_step] at run_succ
  unfold Reaches
  rw [show Sys2Proof.core.run (k + 1) s = _ from run_succ]
  cases step s <;> simp

end Sys2Proof.Machine
end

