-- ==== Sys2Proof/Tests/Slice0.lean ====
section
/-! SUPPORT. Tests: what WellFormed refuses, words written from 30_encoding.md, single steps whose results
are the vectors of spec/95_test_vectors.md, and a witness for the hypotheses of each obligation. -/

namespace Sys2Proof.Tests

open Sys2Proof Sys2Proof.Machine Sys2Proof.Claim

set_option Elab.async false -- one thread: many small kernel checks at once exhaust the memory limit

/-! ### WellFormed: an ill-formed term for each check -/

theorem test_word_mbz_refused : Word.mbzZero 0x00000100#32 = false := by decide
theorem test_word_top_mbz_refused : Word.selectsCommand 0x80000001#32 = false := by decide
theorem test_word_opcode_refused : Word.opcodeListed 0x00000003#32 = false := by decide
theorem test_word_last_opcode_refused : Word.selectsCommand 0x000000FF#32 = false := by decide
theorem test_access_width_refused : Access.wellFormed ⟨16, 0x000#21, .read⟩ = false := by decide
theorem test_access_wide_refused : Access.wellFormed ⟨64, 0x400#21, .write 0⟩ = false := by decide
theorem test_access_alignment_refused : Access.wellFormed ⟨32, 0x00E#21, .read⟩ = false := by decide
theorem test_expect_alignment_refused : (HostStmt.expect 0x001#21 0 0).wellFormed = false := by decide
theorem test_statement_access_refused : (HostStmt.write 0x022#21 0).wellFormed = false := by decide
theorem test_config_small_refused : Config.legal ⟨0, 11, #v[0, 0, 0, 0], 0, Config.defaultCosTable, .ref64⟩ =
    false := by decide
theorem test_config_large_refused : Config.legal ⟨0, 21, #v[0, 0, 0, 0], 0, Config.defaultCosTable, .ref64⟩ =
    false := by decide

/-! ### Decoding: words written bit by bit from 30_encoding.md R71 and Table 30-2 -/

theorem test_decode_nop : decode 0b00000000000000000000000000000000#32 = .ok .nop := by decide
theorem test_decode_fdct : decode 0b00000000000000000000000000000001#32 = .ok .fdct := by decide
theorem test_decode_idct : decode 0b00000000000000000000000000000010#32 = .ok .idct := by decide
theorem test_decode_rep3Enc : decode 0b00000000000000000000000000010000#32 = .ok .rep3Enc := by decide
theorem test_decode_rep3Dec : decode 0b00000000000000000000000000010001#32 = .ok .rep3Dec := by decide
theorem test_decode_crc32 : decode 0b00000000000000000000000000100000#32 = .ok .crc32 := by decide
theorem test_decode_hdrBuild : decode 0b00000000000000000000000000100001#32 = .ok .hdrBuild := by decide
theorem test_decode_hdrParse : decode 0b00000000000000000000000000100010#32 = .ok .hdrParse := by decide

theorem test_decode_mbz_refused :
    decode 0b00000000000000000000000100000000#32 = .error .mbzNonzero := by decide
theorem test_decode_reserved_refused :
    decode 0b00000000000000000000000000010010#32 = .error .reservedOpcode := by decide

/-- The instruction placed by `withFetchWord` is the first that runs after reset. -/
theorem test_withFetchWord : step (State.reset.withFetchWord 32 0x00) = exec .nop (State.reset.withFetchWord 32 0x00) :=
  rfl

theorem test_table_word : decodeTableWord 32 0x00000022 = some .hdrParse := by decide
theorem test_table_word_illegal : decodeTableWord 32 0x00000030 = none := by decide

/-! ### Small states -/

/-- An instance with the default parameters, MAGIC 45 4D 41 47 and VERSION 1. -/
def cfg : Config := ⟨0, 16, #v[0x45, 0x4D, 0x41, 0x47], 1, Config.defaultCosTable, .ref64⟩

/-- That instance right after power-on reset, with the DMEM bytes `bs` at `a`. -/
def fresh (a : Nat) (bs : List Byte) : State :=
  { State.powerOn cfg Env.start with dmem := Memory.writeBytes [] a bs }

/-- The command word `w` pending with the operands given, the host waiting and the engine's step due at
once. -/
def pending (w a0 a1 a2 : Word) (s : State) : State :=
  { s with eng := ⟨true, w, a0, a1, a2⟩, env := { s.env with todo := [.wait], delay := 0 } }

/-- BLK holds `x`. -/
def withBlk (x : Block) (s : State) : State := { s with blk := blkOfBlock x }

/-- The host has `l` to do and the engine's step is `d` host steps away at most. -/
def host (l : List HostStmt) (d : Nat) (s : State) : State := { s with env := { s.env with todo := l, delay := d } }

/-- What `f` says of the next state. -/
def after {α : Type} (o : Host.Outcome State Fault Refusal) (f : State → α) : Option α :=
  match o with
  | .next t => some (f t)
  | .fault _ => none
  | .refused _ => none

/-- "hello". -/
def hello : List Byte := [0x68, 0x65, 0x6C, 0x6C, 0x6F]

/-- The frame of "hello" (42_frame.md R110, its example). -/
def helloFrame : List Byte :=
  [0x45, 0x4D, 0x41, 0x47, 0x01, 0x01, 0x00, 0x00, 0x00, 0x00, 0x00, 0x05, 0x36, 0x10, 0xA6, 0x86] ++ hello

def zeros : Block := Vector.replicate 64 0x0000000000000000#64
def ones : Block := Vector.replicate 64 0x3FF0000000000000#64

/-! ### One step of each command, against spec/95_test_vectors.md and the examples of the rules -/

/-- 43_control.md R119, its example. -/
theorem test_nop : after (step (pending 0x00 0 0 0 (fresh 0 []))) State.statusWord = some 0x00000002#32 := by
  decide

/-- T-1: BLK all 1.0 gives BLK[1] = 1.5700924586837752e-16. -/
theorem test_fdct : (fwd64 Config.defaultCosTable ones)[1] = 0x3CA6A09E667F3BCD#64 := by decide +kernel

/-- T-4: BLK[0] = 8.0 alone gives 1.0000000000000002 everywhere. -/
theorem test_idct : (inv64 Config.defaultCosTable
    (Vector.ofFn fun k => if k.val = 0 then 0x4020000000000000#64 else 0))[63] = 0x3FF0000000000001#64 := by
  decide +kernel

/-- P-1: the byte 0xA5 encodes to 0xE3 0x81 0xC7. -/
theorem test_rep3Enc : after (step (pending 0x10 0x100 8 0x200 (fresh 0x100 [0xA5])))
    (fun t => (t.dmem.readBytes 0x200 3, t.regs.outBits, t.regs.outBytes)) =
    some (some [0xE3, 0x81, 0xC7], 24#32, 3#32) := by
  decide +kernel

/-- P-5: one flipped copy is corrected. -/
theorem test_rep3Dec : after (step (pending 0x11 0x200 24 0x300 (fresh 0x200 [0x63, 0x81, 0xC7])))
    (fun t => (t.dmem.readBytes 0x300 1, t.regs.outBits, t.regs.outBytes)) =
    some (some [0xA5], 8#32, 1#32) := by
  decide +kernel

/-- 41_repetition.md R103: two bits are too few. -/
theorem test_rep3Dec_short : after (step (pending 0x11 0x200 2 0x300 (fresh 0 [])))
    (fun t => (t.statusWord, t.regs.errInfo)) = some (0x00000506#32, 2#32) := by
  decide +kernel

/-- 42_frame.md R109, its example. -/
theorem test_crc32 : after (step (pending 0x20 0x10 5 0 (fresh 0x10 hello))) (fun t => t.regs.crcRes) =
    some 0x3610A686#32 := by
  decide +kernel

/-- F-3. -/
theorem test_hdrBuild : after (step (pending 0x21 0x100 5 1 (fresh 0x110 hello)))
    (fun t => (t.dmem.readBytes 0x100 21, t.regs.crcRes, t.regs.outBytes)) =
    some (some helloFrame, 0x3610A686#32, 21#32) := by
  decide +kernel

/-- F-4. -/
theorem test_hdrParse : after (step (pending 0x22 0x100 21 0 (fresh 0x100 helloFrame)))
    (fun t => (t.statusWord, t.regs.hdrLen, t.regs.payloadAddr, t.regs.outBytes)) =
    some (0x00000002#32, 5#32, 0x110#32, 5#32) := by
  decide +kernel

/-- F-9: a flipped payload bit, CRC_MISMATCH. -/
theorem test_hdrParse_tampered :
    after (step (pending 0x22 0x100 21 0 (fresh 0x100 (helloFrame.set 16 0x69))))
    (fun t => (t.statusWord, t.regs.errInfo)) = some (0x00000906#32, 0x0B708F36#32) := by
  decide +kernel

/-- An illegal word (30_encoding.md R75): ILLEGAL_CMD, with the word in ERR_INFO. -/
theorem test_illegal_word : after (step (pending 0x00000100 0 0 0 (fresh 0 [])))
    (fun t => (t.statusWord, t.regs.errInfo)) = some (0x00000106#32, 0x00000100#32) := by
  decide

/-- A host DMEM write lands little-endian (20_memory.md R54). -/
theorem test_dmem_write : after (step (host [.write 0x100004#21 0x11223344#32] 0 (fresh 0 [])))
    (fun t => t.dmem) = some [(4, 0x44), (5, 0x33), (6, 0x22), (7, 0x11)] := by
  decide

/-- The ID register (10_state.md R27). -/
theorem test_id_read : after (step (host [.read 0x000#21] 0 (fresh 0 []))) (fun t => t.env.rdata) =
    some (some 0x454D0100#32) := by
  decide +kernel

/-- RN ties to even: 1.0 + 2^-53 lies half way and the even neighbour is 1.0 (40_transform.md R83). -/
theorem test_add_ties_to_even : fpAdd 0x3FF0000000000000#64 0x3CA0000000000000#64 = 0x3FF0000000000000#64 := by
  decide +kernel

/-- Subnormals are kept: 2^-1074 doubled (40_transform.md R83). -/
theorem test_subnormal_kept : fpMul 0x0000000000000001#64 0x4000000000000000#64 = 0x0000000000000002#64 := by
  decide +kernel

/-! ### Witnesses: concrete states and operands that meet the hypotheses of the obligations -/

/-- Nothing pending, nothing listed. -/
def idle : State := fresh 0 []

/-- REP3_ENC of the byte 0xA5 pending. -/
def enc : State := pending 0x10 0x100 8 0x200 (fresh 0x100 [0xA5])

/-- `p` of each of the offsets `l`. -/
abbrev AtOffsets (l : List Nat) (p : Offset → Prop) : Prop := ∀ n ∈ l, p (BitVec.ofNat 21 n)

/-- `p` of each of the words `l`. -/
abbrev AtWords (l : List Nat) (p : Word → Prop) : Prop := ∀ n ∈ l, p (BitVec.ofNat 32 n)

theorem next_of_after {α : Type} {o : Host.Outcome State Fault Refusal} {f : State → α} {a : α}
    (h : after o f = some a) : ∃ t, o = .next t ∧ f t = a := by
  cases o <;> simp_all [after]

theorem hasBytes_of_readBytes {m : Memory} {a n : Nat} {bs : List Byte} (h : m.readBytes a n = some bs) :
    HasBytes m a n := by
  rw [Memory.readBytes_eq_some] at h
  exact fun k hk => ⟨_, by rw [h.2 k hk, List.getElem?_eq_getElem (h.1 ▸ hk)]⟩

theorem withBlk_is (x : Block) (s : State) : BlkIs (withBlk x s) x := fun k => blkOfBlock_get x k

theorem witness_StepRunsDecodedCommand :
    (EngineNext enc ∧ decode enc.eng.lcmd = .ok .rep3Enc) ∧
    HostNext (host [.wait] 1 enc) .wait [] := by
  unfold EngineNext HostNext; decide

theorem witness_EngineDecodesLatchedWord :
    (AtWords [0x00000100, 0x80000001, 0x03, 0x0F, 0x12, 0x1F, 0x23, 0xFF] fun w =>
      EngineNext (pending w 0 0 0 idle) ∧ (w.extractLsb' 8 24 ≠ 0 ∨
        (w.extractLsb' 0 8).toNat ∉ [0x00, 0x01, 0x02, 0x10, 0x11, 0x20, 0x21, 0x22])) ∧
    AtWords [0x00, 0x01, 0x02, 0x10, 0x11, 0x20, 0x21, 0x22] fun w =>
      EngineNext (pending w 0 0 0 idle) := by
  unfold EngineNext; decide

theorem witness_CmdWriteIsAcceptedWhileIdle :
    (HostNext (host [.write 0x010#21 0x22#32] 0 idle) (.write 0x010#21 0x22#32) [] ∧
      idle.eng.pending = false) ∧
    (HostNext (host [.write 0x010#21 0x22#32] 1 enc) (.write 0x010#21 0x22#32) [] ∧
      enc.eng.pending = true) := by
  unfold HostNext; decide

theorem witness_OperandRegistersHoldHostWrites :
    (AtOffsets [0x020, 0x024, 0x028] fun off =>
      HostNext (host [.write off 7] 0 idle) (.write off 7) [] ∧
      HostNext (host [.read off] 0 idle) (.read off) [] ∧ HostNext (host [.read off] 1 enc) (.read off) [] ∧
      HostNext (host [.write off 7] 1 enc) (.write off 7) [] ∧ off ∈ [0x020#21, 0x024#21, 0x028#21]) ∧
    idle.eng.pending = false ∧ enc.eng.pending = true ∧ EngineNext (pending 0 0 0 0 idle) ∧
    ∃ t, step (pending 0 0 0 0 idle) = .next t :=
  ⟨by unfold HostNext; decide, rfl, rfl, ⟨rfl, rfl, by decide⟩, _, rfl⟩

theorem witness_WritesWhileBusy :
    enc.eng.pending = true ∧
    (AtOffsets [0x010, 0x020, 0x024, 0x028, 0x400, 0x5FC, 0x100000, 0x10FFFC] fun off =>
      HostNext (host [.write off 9] 1 enc) (.write off 9) [] ∧ off.toNat % 4 = 0 ∧
        LostWhileBusy cfg off.toNat) ∧
    (AtWords [0x0, 0x1, 0x2, 0x3] fun v =>
      HostNext (host [.write 0x008#21 v] 1 enc) (.write 0x008#21 v) []) ∧
    HostNext (host [.write 0x00C#21 0xA#32] 1 enc) (.write 0x00C#21 0xA#32) [] ∧
    (AtOffsets [0x000, 0x014, 0x02C, 0x3FC, 0x600, 0x7FC, 0xFFFFC, 0x110000, 0x1FFFFC] fun off =>
      HostNext (host [.write off 9] 1 enc) (.write off 9) [] ∧ off.toNat % 4 = 0 ∧
        ¬ LostWhileBusy cfg off.toNat ∧ off.toNat ≠ 0x008 ∧ off.toNat ≠ 0x00C) := by
  unfold HostNext LostWhileBusy; decide +kernel

theorem witness_ReadsWhileBusy :
    enc.eng.pending = true ∧
    (AtOffsets [0x000, 0x004, 0x008, 0x00C, 0x010, 0x014, 0x020, 0x028, 0x040,
        0x080, 0x084, 0x400, 0x600, 0x7FC, 0x100000] fun off =>
      HostNext (host [.read off] 1 enc) (.read off) [] ∧ off.toNat % 4 = 0) ∧
    (0x600#21).toNat = 0x600 + 8 * (8 * (0 : Fin 8).val + (0 : Fin 8).val) ∧
    (0x7FC#21).toNat = 0x604 + 8 * (8 * (7 : Fin 8).val + (7 : Fin 8).val) ∧
    (AtOffsets [0x02C, 0x110000] fun off => HostNext (host [.read off] 1 enc) (.read off) [] ∧
      off.toNat % 4 = 0 ∧ ¬ Listed cfg off.toNat) := by
  unfold HostNext Listed; decide +kernel

theorem witness_ReservedOffsetsReadZeroIgnoreWrites :
    (AtOffsets [0x018, 0x02C, 0x3FC, 0x800, 0xFFFFC, 0x110000, 0x1FFFFC] fun off =>
      off.toNat % 4 = 0 ∧ ¬ Listed cfg off.toNat ∧ HostNext (host [.read off] 0 idle) (.read off) [] ∧
      HostNext (host [.write off 9] 1 enc) (.write off 9) []) ∧
    cfg.legal = true ∧ 0x100000 + cfg.dmemSize ≤ 0x110000 := by
  unfold HostNext Listed; decide +kernel

theorem witness_IdleReadsReturnTheRegisters :
    idle.eng.pending = false ∧ idle.cfg.legal = true ∧
    AtOffsets [0x000, 0x004, 0x008, 0x00C, 0x010, 0x014, 0x020, 0x024, 0x028, 0x040, 0x044, 0x048, 0x04C, 0x050,
        0x054, 0x058, 0x05C, 0x060, 0x064, 0x080, 0x084] fun off =>
      HostNext (host [.read off] 0 idle) (.read off) [] := by
  unfold HostNext; decide +kernel

theorem witness_ReadOnlyRegistersIgnoreWrites :
    AtOffsets [0x000, 0x004, 0x014, 0x040, 0x064, 0x080, 0x084] fun off =>
      off.toNat ∈ [0x000, 0x004, 0x014, 0x040, 0x044, 0x048, 0x04C, 0x050, 0x054, 0x058, 0x05C, 0x060, 0x064,
        0x080, 0x084] ∧ HostNext (host [.write off 9] 0 idle) (.write off 9) [] ∧
      HostNext (host [.write off 9] 1 enc) (.write off 9) [] := by
  unfold HostNext; decide +kernel

/-- The first and the last half of the window, with nothing pending and with a command pending. -/
theorem witness_CosromWindowReadsTheConstants :
    (0x600#21).toNat = 0x600 + 8 * (8 * (0 : Fin 8).val + (0 : Fin 8).val) ∧
    (0x7FC#21).toNat = 0x604 + 8 * (8 * (7 : Fin 8).val + (7 : Fin 8).val) ∧
    AtOffsets [0x600, 0x7FC] fun off => HostNext (host [.read off] 0 idle) (.read off) [] ∧
      HostNext (host [.read off] 1 enc) (.read off) [] ∧
      HostNext (host [.write off 9] 0 idle) (.write off 9) [] ∧
      HostNext (host [.write off 9] 1 enc) (.write off 9) [] := by
  unfold HostNext; decide +kernel

theorem witness_DmemWindowIsLittleEndian :
    idle.cfg.legal = true ∧ idle.eng.pending = false ∧
    (∀ a ∈ [0, 0xFFFC], a % 4 = 0 ∧ a < idle.cfg.dmemSize ∧
      HostNext (host [.write (BitVec.ofNat 21 (0x100000 + a)) 9] 0 idle)
        (.write (BitVec.ofNat 21 (0x100000 + a)) 9) []) ∧
    HostNext (host [.read (BitVec.ofNat 21 (0x100000 + 0xFFFC))] 0 (fresh 0xFFFC [1, 2, 3, 4]))
      (.read (BitVec.ofNat 21 (0x100000 + 0xFFFC))) [] ∧
    Holds (fresh 0xFFFC [1, 2, 3, 4]).dmem 0xFFFC [1, 2, 3, 4] := by
  unfold HostNext Holds; decide +kernel

theorem witness_BlkWindowReplacesOneHalf :
    (AtOffsets [0x400 + 8 * (0 : Fin 64).val, 0x404 + 8 * (63 : Fin 64).val] fun off =>
      HostNext (host [.write off 9] 0 idle) (.write off 9) [] ∧
      HostNext (host [.read off] 0 (withBlk ones idle)) (.read off) [] ∧
      HostNext (host [.write off 9] 1 enc) (.write off 9) [] ∧
      HostNext (host [.read off] 1 enc) (.read off) []) ∧
    idle.eng.pending = false ∧ enc.eng.pending = true ∧
    (withBlk ones idle).blk[(63 : Fin 64)] = ⟨some 0x00000000#32, some 0x3FF00000#32⟩ := by
  refine ⟨by unfold HostNext; decide +kernel, rfl, rfl, ?_⟩
  exact withBlk_is ones idle 63

theorem witness_StatusFieldsAndWriteOneToClear :
    HostNext (host [.read 0x00C#21] 0 idle) (.read 0x00C#21) [] ∧
    HostNext (host [.write 0x00C#21 0xA#32] 1 enc) (.write 0x00C#21 0xA#32) [] := by
  unfold HostNext; decide

theorem witness_CtrlWriteSetsIeOrResets :
    HostNext (host [.read 0x008#21] 0 idle) (.read 0x008#21) [] ∧
    (AtWords [0x1, 0xFFFFFFFD] fun v => HostNext (host [.write 0x008#21 v] 0 idle) (.write 0x008#21 v) [] ∧
      v.getLsbD 1 = false) ∧
    (AtWords [0x2, 0x3] fun v => HostNext (host [.write 0x008#21 v] 1 enc) (.write 0x008#21 v) [] ∧
      v.getLsbD 1 = true) := by
  unfold HostNext; decide

theorem witness_SoftResetClearsTheRegisters :
    (HostNext (host [.write 0x008#21 2#32] 1 enc) (.write 0x008#21 2#32) [] ∧ (2#32).getLsbD 1 = true) ∧
    (HostNext (host [.write 0x008#21 3#32] 0 idle) (.write 0x008#21 3#32) [] ∧ (3#32).getLsbD 1 = true ∧
      idle.eng.pending = false) := by
  unfold HostNext; decide

/-- One pending command for each clause: both transforms, each DMEM writer whose checks pass, and commands
that would write nothing. -/
theorem witness_SoftResetAbortsThePendingCommand :
    (2#32).getLsbD 1 = true ∧
    (∀ s ∈ [pending 0x01 0 0 0 idle, pending 0x02 0 0 0 idle, enc,
        pending 0x11 0x100 24 0x200 idle, pending 0x21 0xFFF0 0 1 idle, pending 0x20 0 0 0 idle,
        pending 0x10 0x100 8 0x100 idle, pending 0x11 0x100 2 0x200 idle, pending 0x21 0xFFF1 0 1 idle,
        pending 0x100 0 0 0 idle],
      s.eng.pending = true ∧ HostNext (host [.write 0x008#21 2#32] 1 s) (.write 0x008#21 2#32) []) ∧
    EncChecksPass enc ∧ DecChecksPass (pending 0x11 0x100 24 0x200 idle) ∧
    BuildChecksPass (pending 0x21 0xFFF0 0 1 idle) ∧ ¬ EncChecksPass (pending 0x10 0x100 8 0x100 idle) ∧
    ¬ DecChecksPass (pending 0x11 0x100 2 0x200 idle) ∧ ¬ BuildChecksPass (pending 0x21 0xFFF1 0 1 idle) := by
  unfold HostNext EncChecksPass DecChecksPass BuildChecksPass InRange Overlaps; decide +kernel

theorem witness_PowerOnResetStartsAgain : HostNext (host [.powerOnReset] 1 enc) .powerOnReset [] := by
  unfold HostNext; decide

theorem witness_NopOnlyCompletes : EngineNext (pending 0x00000100#32 0 0 0 idle) :=
  ⟨rfl, rfl, by decide⟩

/-- A block with one NaN, the last element. -/
def oneNaN : Block := Vector.ofFn fun k => if k.val = 63 then 0x7FF0000000000001#64 else 0

theorem withBlk_completes (i : Instr) (hi : i = .fdct ∨ i = .idct) (x : Block) (s : State) :
    ∃ t, exec i (withBlk x s) = .next t := by
  have h : (withBlk x s).readBlock ≠ none := fun h => by
    rw [State.readBlock_eq_none] at h
    obtain ⟨k, hk⟩ := h
    rw [show (withBlk x s).blk[k] = _ from blkOfBlock_get x k] at hk
    cases hk
  rcases hi with rfl | rfl
  · rcases runTransform_cases .fdct fwd64 Config.fwdImpl (withBlk x s) with ⟨_, _, e⟩ | ⟨e, _⟩
    · exact ⟨_, e⟩
    · exact absurd e h
  · rcases runTransform_cases .idct inv64 Config.invImpl (withBlk x s) with ⟨_, _, e⟩ | ⟨e, _⟩
    · exact ⟨_, e⟩
    · exact absurd e h

/-- The instance under ABSTRACT. -/
def abstractIdle : State := { idle with cfg := { cfg with transformImpl := .opaqueImpl } }

theorem witness_FdctReplacesBlkByItsTransform :
    (BlkIs (withBlk ones idle) ones ∧ (withBlk ones idle).cfg.transformImpl = .ref64) ∧
    (BlkIs (withBlk ones abstractIdle) ones ∧
      (withBlk ones abstractIdle).cfg.transformImpl = .opaqueImpl ∧
      ∀ k : Fin 64, fpIsFinite ones[k] = true) :=
  ⟨⟨withBlk_is _ _, rfl⟩, withBlk_is _ _, rfl, by decide +kernel⟩

theorem witness_IdctReplacesBlkByItsInverse :
    (BlkIs (withBlk zeros idle) zeros ∧ (withBlk zeros idle).cfg.transformImpl = .ref64) ∧
    (BlkIs (withBlk zeros abstractIdle) zeros ∧
      (withBlk zeros abstractIdle).cfg.transformImpl = .opaqueImpl ∧
      ∀ k : Fin 64, fpIsFinite zeros[k] = true) :=
  ⟨⟨withBlk_is _ _, rfl⟩, withBlk_is _ _, rfl, by decide +kernel⟩

theorem witness_NaNInputMakesEveryOutputNaN :
    (withBlk oneNaN idle).cfg.transformImpl = .ref64 ∧ BlkIs (withBlk oneNaN idle) oneNaN ∧
    ∃ k : Fin 64, fpIsNaN oneNaN[k] = true :=
  ⟨rfl, withBlk_is _ _, 63, by decide +kernel⟩

theorem witness_TransformDependsOnlyOnBlkAndConfig :
    (withBlk ones idle).cfg = (withBlk ones enc).cfg ∧ BlkIs (withBlk ones idle) ones ∧
    BlkIs (withBlk ones enc) ones ∧ (withBlk ones idle).cfg.transformImpl = .ref64 ∧
    (∃ t, exec .fdct (withBlk ones idle) = .next t) ∧ (∃ t, exec .fdct (withBlk ones enc) = .next t) ∧
    (∀ k : Fin 64, fpIsFinite ones[k] = true) :=
  ⟨rfl, withBlk_is _ _, withBlk_is _ _, rfl, withBlk_completes _ (.inl rfl) _ _,
    withBlk_completes _ (.inl rfl) _ _, by decide +kernel⟩

/-- `p` of each of the pairs of encodings `l`. -/
abbrev AtPairs (l : List (Nat × Nat)) (p : F64 → F64 → Prop) : Prop :=
  ∀ n ∈ l, p (BitVec.ofNat 64 n.1) (BitVec.ofNat 64 n.2)

/-- The largest finite value plus a tiny one, a tie, and an exact zero. -/
theorem witness_AdditionRoundsToNearestEven :
    AtPairs [(0x7FEFFFFFFFFFFFFF, 0x3FF0000000000000), (0x3FF0000000000000, 0x3CA0000000000000),
        (0x0000000000000001, 0x8000000000000001)] fun x y =>
      fpIsFinite x = true ∧ fpIsFinite y = true ∧ |fpValue x + fpValue y| < 2 ^ 1024 - 2 ^ 970 := by
  decide +kernel

/-- The largest finite value, an underflow to zero, and an inexact product. -/
theorem witness_MultiplicationRoundsToNearestEven :
    AtPairs [(0x7FEFFFFFFFFFFFFF, 0x3FF0000000000000), (0x0000000000000001, 0x3FE0000000000000),
        (0x3FF0000000000001, 0x3FF8000000000000)] fun x y =>
      fpIsFinite x = true ∧ fpIsFinite y = true ∧ |fpValue x * fpValue y| < 2 ^ 1024 - 2 ^ 970 := by
  decide +kernel

theorem witness_SpecialValuesFollowIeee :
    (fpIsInf 0xFFF0000000000000#64 = true ∧ fpIsFinite 0x0000000000000001#64 = true ∧
      fpValue 0x0000000000000001#64 ≠ 0) ∧ fpIsNaN 0x7FF0000000000001#64 = true := by
  refine ⟨⟨by decide +kernel, by decide +kernel, ?_⟩, by decide +kernel⟩
  refine div_ne_zero ?_ (by positivity)
  exact_mod_cast (by decide +kernel : fpInt 0x0000000000000001#64 ≠ 0)

theorem not_hasBytes {m : Memory} {a n : Nat} (k : Nat) (hk : k < n) (h : m.read (a + k) = none) :
    ¬ HasBytes m a n := fun hb => by
  obtain ⟨v, hv⟩ := hb k hk
  rw [h] at hv
  cases hv

/-- The header of the frame of "hello", its payload missing. -/
def headOnly : State := pending 0x22 0x100 21 0 (fresh 0x100 (helloFrame.take 16))

theorem witness_ReadingACellWithNoValueFaults :
    ((idle.blk[(0 : Fin 64)]).lo = none ∨ (idle.blk[(0 : Fin 64)]).hi = none) ∧
    (EncChecksPass (pending 0x10 0x100 8 0x200 idle) ∧
      ¬ HasBytes (pending 0x10 0x100 8 0x200 idle).dmem 0x100 (bytesFor 8)) ∧
    (DecChecksPass (pending 0x11 0x100 3 0x200 idle) ∧
      ¬ HasBytes (pending 0x11 0x100 3 0x200 idle).dmem 0x100 (bytesFor 3)) ∧
    (InRange (pending 0x20 0xFFFF 1 0 idle) 0xFFFF 1 ∧ ¬ HasBytes idle.dmem 0xFFFF 1) ∧
    (BuildChecksPass (pending 0x21 0x100 5 1 idle) ∧ ¬ HasBytes idle.dmem (0x100 + 16) 5) ∧
    (InRange (pending 0x22 0xFFF0 16 0 idle) 0xFFF0 16 ∧ ¬ HasBytes idle.dmem 0xFFF0 16) ∧
    (InRange headOnly (op0 headOnly) (op1 headOnly) ∧ (helloFrame.take 16).length = 16 ∧
      Holds headOnly.dmem (op0 headOnly) (helloFrame.take 16) ∧ MagicMatches headOnly (helloFrame.take 16) ∧
      16 + (headerRead headOnly (helloFrame.take 16)).regs.hdrLen.toNat ≤ op1 headOnly ∧
      ¬ HasBytes headOnly.dmem (op0 headOnly + 16)
        (headerRead headOnly (helloFrame.take 16)).regs.hdrLen.toNat) := by
  refine ⟨by decide +kernel, ⟨?_, not_hasBytes 0 (by decide) rfl⟩, ⟨?_, not_hasBytes 0 (by decide) rfl⟩,
    ⟨?_, not_hasBytes 0 (by decide) rfl⟩, ⟨?_, not_hasBytes 0 (by decide) rfl⟩,
    ⟨?_, not_hasBytes 0 (by decide) rfl⟩, ?_, rfl, ?_, ?_, ?_, not_hasBytes 0 ?_ ?_⟩ <;>
  (try unfold EncChecksPass) <;> (try unfold DecChecksPass) <;> (try unfold BuildChecksPass) <;>
  (try unfold InRange) <;> (try unfold Overlaps) <;> (try unfold Holds) <;> (try unfold MagicMatches) <;>
  decide +kernel

/-- The source or the destination one byte past DMEM, the ranges sharing one byte, and passing at the edge,
with 0 bits at the end of DMEM too. -/
theorem witness_Rep3EncTriplesEveryBit :
    ¬ InRange idle 0xFFFF (bytesFor 16) ∧
    (InRange idle 0x100 (bytesFor 8) ∧ ¬ InRange idle 0xFFFE (bytesFor (3 * 8))) ∧
    (InRange idle 0x102 (bytesFor 8) ∧ InRange idle 0x100 (bytesFor (3 * 8)) ∧
      Overlaps 0x102 (bytesFor 8) 0x100 (bytesFor (3 * 8))) ∧
    (EncChecksPass (pending 0x10 0x103 8 0x100 (fresh 0x103 [0xA5])) ∧
      HasBytes (fresh 0x103 [0xA5]).dmem 0x103 (bytesFor 8)) ∧
    (EncChecksPass (pending 0x10 0x10000 0 0x10000 idle) ∧ HasBytes idle.dmem 0x10000 (bytesFor 0)) := by
  refine ⟨?_, ?_, ?_, ⟨?_, hasBytes_of_readBytes (bs := [0xA5]) ?_⟩, ?_, hasBytes_of_readBytes (bs := []) ?_⟩ <;>
  (try unfold EncChecksPass) <;> (try unfold InRange) <;> (try unfold Overlaps) <;> decide +kernel

theorem witness_Rep3DecTakesTheMajority :
    (op1 (pending 0x11 0 2 0 idle) < 3) ∧
    (3 ≤ op1 (pending 0x11 0xFFFF 9 0 idle) ∧ ¬ InRange idle 0xFFFF (bytesFor 9)) ∧
    (InRange idle 0x100 (bytesFor 3) ∧ ¬ InRange idle 0x10000 (bytesFor (3 / 3))) ∧
    (InRange idle 0x100 (bytesFor 3) ∧ InRange idle 0x100 (bytesFor (3 / 3)) ∧
      Overlaps 0x100 (bytesFor 3) 0x100 (bytesFor (3 / 3))) ∧
    (DecChecksPass (pending 0x11 0x100 5 0x101 (fresh 0x100 [0xA5])) ∧
      HasBytes (fresh 0x100 [0xA5]).dmem 0x100 (bytesFor 5)) := by
  refine ⟨?_, ?_, ?_, ?_, ?_, hasBytes_of_readBytes (bs := [0xA5]) ?_⟩ <;>
  (try unfold DecChecksPass) <;> (try unfold InRange) <;> (try unfold Overlaps) <;> decide +kernel

/-- REP3_DEC pending of a stream whose first byte is `b`. -/
def dec (b : Byte) : State := pending 0x11 0x200 24 0x300 (fresh 0x200 [b, 0x81, 0xC7])

/-- The first triple of P-5 with its first copy flipped, and with two copies flipped. -/
theorem witness_OneFlippedCopyIsCorrectedTwoAreNot :
    (DecChecksPass (dec 0x63) ∧ HasBytes (dec 0x63).dmem (op0 (dec 0x63)) (bytesFor (op1 (dec 0x63))) ∧
      0 < op1 (dec 0x63) / 3 ∧ BitIs (dec 0x63).dmem (op0 (dec 0x63)) (3 * 0) (true ^^ true) ∧
      BitIs (dec 0x63).dmem (op0 (dec 0x63)) (3 * 0 + 1) (true ^^ false) ∧
      BitIs (dec 0x63).dmem (op0 (dec 0x63)) (3 * 0 + 2) (true ^^ false)) ∧
    (DecChecksPass (dec 0x23) ∧ HasBytes (dec 0x23).dmem (op0 (dec 0x23)) (bytesFor (op1 (dec 0x23))) ∧
      0 < op1 (dec 0x23) / 3 ∧ BitIs (dec 0x23).dmem (op0 (dec 0x23)) (3 * 0) (true ^^ true) ∧
      BitIs (dec 0x23).dmem (op0 (dec 0x23)) (3 * 0 + 1) (true ^^ true) ∧
      BitIs (dec 0x23).dmem (op0 (dec 0x23)) (3 * 0 + 2) (true ^^ false)) := by
  refine ⟨⟨?_, hasBytes_of_readBytes (bs := [0x63, 0x81, 0xC7]) rfl, by decide, ⟨0x63, rfl, rfl⟩,
    ⟨0x63, rfl, rfl⟩, ⟨0x63, rfl, rfl⟩⟩, ?_, hasBytes_of_readBytes (bs := [0x23, 0x81, 0xC7]) rfl, by decide,
    ⟨0x23, rfl, rfl⟩, ⟨0x23, rfl, rfl⟩, ⟨0x23, rfl, rfl⟩⟩ <;>
  (unfold DecChecksPass InRange Overlaps; decide +kernel)

/-- P-1 and then P-5 without the flip. -/
theorem witness_RepetitionRoundTripReturnsTheBits :
    ∃ t, 1 ≤ op1 enc ∧ EncChecksPass enc ∧ exec .rep3Enc enc = .next t ∧
      (let u := pending 0x11 0x200 24 0x300 (fresh 0x200 [0xE3, 0x81, 0xC7])
       u.cfg = enc.cfg ∧ u.eng.larg0 = enc.eng.larg2 ∧ op1 u = 3 * op1 enc ∧ DecChecksPass u ∧
        ∀ x, op2 enc ≤ x → x < op2 enc + bytesFor (3 * op1 enc) → u.dmem.read x = t.dmem.read x) := by
  obtain ⟨t, ht, hd⟩ := next_of_after (o := exec .rep3Enc enc) (f := fun t => t.dmem)
    (a := [(0x100, 0xA5), (0x200, 0xE3), (0x201, 0x81), (0x202, 0xC7)]) (by decide +kernel)
  refine ⟨t, by decide, ?_, ht, rfl, rfl, rfl, ?_, fun x h1 h2 => ?_⟩
  · unfold EncChecksPass InRange Overlaps; decide +kernel
  · unfold DecChecksPass InRange Overlaps; decide +kernel
  · have h3 : 0x200 ≤ x ∧ x < 0x203 := ⟨h1, h2⟩
    have h4 : x = 0x200 ∨ x = 0x201 ∨ x = 0x202 := by omega
    rw [show t.dmem = _ from hd]
    rcases h4 with rfl | rfl | rfl <;> rfl

theorem witness_Crc32WritesTheChecksum :
    ¬ InRange idle 0xFFFF 2 ∧
    (InRange (pending 0x20 0x10 5 0 (fresh 0x10 hello)) 0x10 5 ∧ hello.length = 5 ∧
      Holds (fresh 0x10 hello).dmem 0x10 hello) ∧
    (InRange idle 0x10000 0 ∧ ([] : List Byte).length = 0 ∧ Holds idle.dmem 0x10000 []) := by
  unfold InRange Holds; decide +kernel

/-- HDR_BUILD of "hello" pending, its frame at 0x100. -/
def build : State := pending 0x21 0x100 5 1 (fresh 0x110 hello)

theorem witness_HdrBuildWritesTheHeader :
    (0x00000101#32).extractLsb' 8 24 ≠ 0 ∧
    ((0x00000002#32).extractLsb' 8 24 = 0 ∧ (0x00000002#32).extractLsb' 0 8 ≠ 1) ∧
    ¬ InRange idle 0xFFF1 (16 + 0) ∧
    (BuildChecksPass build ∧ hello.length = op1 build ∧ Holds build.dmem (op0 build + 16) hello) := by
  unfold BuildChecksPass InRange Holds; decide +kernel

/-- HDR_PARSE pending over the bytes `bs` at 0x100. -/
def parse (bs : List Byte) : State := pending 0x22 0x100 21 0 (fresh 0x100 bs)

/-- Each clause: out of range, 15 bytes, wrong magic, length one too great, wrong CRC, success. -/
theorem witness_HdrParseValidatesTheFrame :
    ¬ InRange idle 0xFFF0 17 ∧ (InRange idle 0xFFF1 15 ∧ 15 < 16) ∧
    (∀ p ∈ [helloFrame.set 0 0, helloFrame.set 11 6, helloFrame.set 16 0x69, helloFrame],
      InRange (parse p) (op0 (parse p)) (op1 (parse p)) ∧ 16 ≤ op1 (parse p) ∧ (p.take 16).length = 16 ∧
      Holds (parse p).dmem (op0 (parse p)) (p.take 16)) ∧
    ¬ MagicMatches (parse (helloFrame.set 0 0)) (helloFrame.set 0 0) ∧
    (MagicMatches (parse (helloFrame.set 11 6)) (helloFrame.set 11 6) ∧
      21 < 16 + (headerRead (parse (helloFrame.set 11 6)) ((helloFrame.set 11 6).take 16)).regs.hdrLen.toNat) ∧
    (∀ p ∈ [(helloFrame.set 16 0x69, false), (helloFrame, true)],
      MagicMatches (parse p.1) (p.1.take 16) ∧
      16 + (headerRead (parse p.1) (p.1.take 16)).regs.hdrLen.toNat ≤ op1 (parse p.1) ∧
      (p.1.drop 16).length = (headerRead (parse p.1) (p.1.take 16)).regs.hdrLen.toNat ∧
      Holds (parse p.1).dmem (op0 (parse p.1) + 16) (p.1.drop 16) ∧
      decide (crc32 (p.1.drop 16) = (headerRead (parse p.1) (p.1.take 16)).regs.hdrCrc) = p.2) := by
  unfold InRange Holds MagicMatches; decide +kernel

/-- What HDR_BUILD leaves of `build`. -/
theorem build_dmem : ∃ t, exec .hdrBuild build = .next t ∧ t.dmem = (fresh 0x100 helloFrame).dmem :=
  next_of_after (f := fun t => t.dmem) (by decide +kernel)

/-- F-3 and then F-4. -/
theorem witness_FrameRoundTripSucceeds :
    build.cfg.legal = true ∧ BuildChecksPass build ∧ hello.length = op1 build ∧
    Holds build.dmem (op0 build + 16) hello ∧ ∃ t, exec .hdrBuild build = .next t ∧
      (parse helloFrame).cfg = build.cfg ∧ op0 (parse helloFrame) = op0 build ∧
      op1 (parse helloFrame) = 16 + op1 build ∧
      ∀ x, op0 build ≤ x → x < op0 build + (16 + op1 build) →
        (parse helloFrame).dmem.read x = t.dmem.read x := by
  refine ⟨by decide +kernel, ?_, rfl, ?_, ?_⟩
  · unfold BuildChecksPass InRange; decide +kernel
  · unfold Holds; decide +kernel
  · obtain ⟨t, ht, hd⟩ := build_dmem
    exact ⟨t, ht, rfl, rfl, rfl, fun x _ _ => by rw [hd]; rfl⟩

/-- F-9 (the last payload bit flipped) and F-7 (a changed magic byte). -/
theorem witness_TamperedFrameIsRejected :
    BuildChecksPass build ∧ hello.length = op1 build ∧ Holds build.dmem (op0 build + 16) hello ∧
    ∃ t, exec .hdrBuild build = .next t ∧
      (let u := parse (helloFrame.set 16 0x69)
       u.cfg = build.cfg ∧ op0 u = op0 build ∧ op1 u = 16 + op1 build ∧
        (∀ v, t.dmem.read (op0 build + 16 + 0) = some v →
          u.dmem.read (op0 build + 16 + 0) = some (v ^^^ ((1#8) <<< 0))) ∧
        ∀ x, op0 build ≤ x → x < op0 build + (16 + op1 build) → x ≠ op0 build + 16 + 0 →
          u.dmem.read x = t.dmem.read x) ∧
      (let u := parse (helloFrame.set 0 0x44)
       u.cfg = build.cfg ∧ op0 u = op0 build ∧ op1 u = 16 + op1 build ∧
        Holds u.dmem (op0 build) [0x44, 0x4D, 0x41, 0x47] ∧ ([0x44, 0x4D, 0x41, 0x47] : List Byte) ≠ [build.cfg.magic[0], build.cfg.magic[1], build.cfg.magic[2],
          build.cfg.magic[3]] ∧
        ∀ x, op0 build + 4 ≤ x → x < op0 build + (16 + op1 build) → u.dmem.read x = t.dmem.read x) := by
  refine ⟨?_, rfl, ?_, ?_⟩
  · unfold BuildChecksPass InRange; decide +kernel
  · unfold Holds; decide +kernel
  · obtain ⟨t, ht, hd⟩ := build_dmem
    have ho0 : op0 build = 0x100 := rfl
    have ho1 : op1 build = 5 := rfl
    refine ⟨t, ht, ⟨rfl, rfl, rfl, ?_, ?_⟩, rfl, rfl, rfl, ?_, by decide, ?_⟩
    · rw [hd]
      decide +kernel
    · rw [hd, ho0, ho1]
      intro x h1 h2 h3
      have : ∀ y ∈ List.range 21, 0x100 + y ≠ 0x110 → (parse (helloFrame.set 16 0x69)).dmem.read (0x100 + y) =
        (fresh 0x100 helloFrame).dmem.read (0x100 + y) := by decide +kernel
      have h4 := this (x - 0x100) (by simp; omega) (by omega)
      rwa [show 0x100 + (x - 0x100) = x by omega] at h4
    · unfold Holds; decide +kernel
    · rw [hd, ho0, ho1]
      intro x h1 h2
      have : ∀ y ∈ List.range 21, 4 ≤ y → (parse (helloFrame.set 0 0x44)).dmem.read (0x100 + y) =
        (fresh 0x100 helloFrame).dmem.read (0x100 + y) := by decide +kernel
      have h4 := this (x - 0x100) (by simp; omega) (by omega)
      rwa [show 0x100 + (x - 0x100) = x by omega] at h4

/-- A failed command of each family, and an illegal word. -/
theorem witness_ErrorsArePrecise :
    ∀ s ∈ [pending 0x10 0xFFFF 16 0 idle, pending 0x11 0 2 0 idle, pending 0x20 0xFFFF 2 0 idle,
        pending 0x21 0 0 2 idle, parse (helloFrame.set 16 0x69), parse (helloFrame.set 0 0),
        pending 0x03 0 0 0 idle],
      EngineNext s ∧ ∃ t, step s = .next t ∧ t.regs.status.errCode ≠ .none := by
  intro s hs
  have h : EngineNext s ∧ after (step s) (fun t => decide (t.regs.status.errCode ≠ .none)) = some true := by
    unfold EngineNext; revert s; decide +kernel
  obtain ⟨t, ht, he⟩ := next_of_after h.2
  exact ⟨h.1, t, ht, of_decide_eq_true he⟩

theorem witness_CommandsRaiseOnlyTheirOwnCodes :
    (∃ t, exec .nop idle = .next t) ∧ ∃ t, exec .hdrBuild (pending 0x21 0 0 2 idle) = .next t ∧
      t.regs.status.errCode ∈ mayRaise .hdrBuild := by
  refine ⟨⟨_, rfl⟩, ?_⟩
  obtain ⟨t, ht, he⟩ := next_of_after (o := exec .hdrBuild (pending 0x21 0 0 2 idle))
    (f := fun t => t.regs.status.errCode) (a := .unsupportedScheme) (by decide +kernel)
  exact ⟨t, ht, by rw [he]; decide⟩

/-- Every code is reached, with the ERR_INFO of 60_exceptions.md R128. -/
theorem witness_ErrInfoFollowsTheCode :
    ∀ p ∈ [(pending 0x00 0 0 0 idle, ErrCode.none, 0x0#32), (pending 0x03 0 0 0 idle, .illegalCmd, 0x3#32),
        (pending 0x10 0xFFFF 16 0 idle, .range, 0x0#32), (pending 0x10 0 8 0xFFFE idle, .range, 0x2#32),
        (pending 0x11 0x100 3 0x100 idle, .overlap, 0x0#32), (pending 0x21 0 0 0x101 idle, .badArg, 0x2#32),
        (pending 0x11 0 2 0 idle, .insufficientBits, 0x2#32), (pending 0x22 0 15 0 idle, .frameTooShort, 0xF#32),
        (parse (helloFrame.set 0 0x44), .invalidMagic, 0x444D4147#32),
        (parse (helloFrame.set 11 6), .invalidLength, 0x6#32),
        (parse (helloFrame.set 16 0x69), .crcMismatch, 0x0B708F36#32),
        (pending 0x21 0 0 2 idle, .unsupportedScheme, 0x2#32)],
      EngineNext p.1 ∧ ∃ t, step p.1 = .next t ∧ t.regs.status.errCode = p.2.1 ∧ t.regs.errInfo = p.2.2 := by
  intro p hp
  have h : EngineNext p.1 ∧
      after (step p.1) (fun t => (t.regs.status.errCode, t.regs.errInfo)) = some (p.2.1, p.2.2) := by
    unfold EngineNext; revert p; decide +kernel
  obtain ⟨t, ht, he⟩ := next_of_after h.2
  exact ⟨h.1, t, ht, congrArg Prod.fst he, congrArg Prod.snd he⟩

/-- A state with a NOP pending that meets the invariant, and takes the engine's step. -/
theorem witness_StepKeepsTheInvariant :
    ((fresh 0x100 [0xA5]).withFetchWord 32 0x00).Inv ∧
    ∃ t, step ((fresh 0x100 [0xA5]).withFetchWord 32 0x00) = .next t := by
  refine ⟨⟨?_, ?_, ?_, ?_, ?_, ?_, ?_, ?_, ?_, ?_, ?_⟩, _, rfl⟩ <;> decide +kernel

theorem witness_ConfigurationNeverChanges :
    (∃ t, step enc = .next t) ∧ idle.cfg = enc.cfg ∧
    (AtOffsets [0x000, 0x004, 0x080, 0x084, 0x600, 0x7FC] fun off =>
      off.toNat ∈ [0x000, 0x004, 0x080, 0x084] ∨ (0x600 ≤ off.toNat ∧ off.toNat < 0x800)) := by
  refine ⟨?_, rfl, by decide⟩
  obtain ⟨t, ht, _⟩ := next_of_after (o := step enc) (f := fun t => t.regs.outBits) (a := 24#32)
    (by decide +kernel)
  exact ⟨t, ht⟩

/-- `s` with DONE and IE as given. -/
def flagged (done ie : Bool) (s : State) : State :=
  { s with regs := { s.regs with ctrlIe := ie, status := { s.regs.status with done := done } } }

/-- A completion with IE = 1, and an IE write with DONE = 1. -/
theorem witness_InterruptRisesOnlyByCompletionOrEnable :
    (∃ t, step (pending 0 0 0 0 (flagged false true idle)) = .next t ∧
      (pending 0 0 0 0 (flagged false true idle)).regs.status.done = false ∧ t.regs.status.done = true ∧
      (pending 0 0 0 0 (flagged false true idle)).irq = false ∧ t.irq = true) ∧
    ∃ t, step (host [.write 0x008#21 1] 0 (flagged true false idle)) = .next t ∧
      (host [.write 0x008#21 1] 0 (flagged true false idle)).irq = false ∧ t.irq = true := by
  refine ⟨⟨_, rfl, rfl, rfl, rfl, rfl⟩, ?_⟩
  obtain ⟨t, ht, hi⟩ := next_of_after (o := step (host [.write 0x008#21 1] 0 (flagged true false idle)))
    (f := State.irq) (a := true) (by decide +kernel)
  exact ⟨t, ht, rfl, hi⟩

theorem witness_PendingCommandKeepsItsData :
    (host [.write 0x100100#21 0] 1 enc).eng.pending = true ∧
    ¬ EngineNext (host [.write 0x100100#21 0] 1 enc) ∧
    ∃ t, step (host [.write 0x100100#21 0] 1 enc) = .next t ∧ t.eng.pending = true := by
  refine ⟨rfl, by unfold EngineNext; decide, ?_⟩
  exact next_of_after (f := fun t => t.eng.pending) (by decide +kernel)

theorem witness_EngineStepComesAfterFinitelyManyHostSteps :
    (host [.write 0x008#21 1, .wait, .read 0x00C#21] 2 enc).eng.pending = true ∧
    HostStmt.wait ∈ (host [.write 0x008#21 1, .wait, .read 0x00C#21] 2 enc).env.todo ∧
    ∀ h ∈ (host [.write 0x008#21 1, .wait, .read 0x00C#21] 2 enc).env.todo, Harmless h := by
  refine ⟨rfl, by decide, fun h hh => ?_⟩
  have h3 : h = .write 0x008#21 1 ∨ h = .wait ∨ h = .read 0x00C#21 := by simpa [host] using hh
  rcases h3 with rfl | rfl | rfl
  · exact ⟨rfl, fun v hv _ => by cases hv; rfl⟩
  · trivial
  · exact ⟨rfl, fun v hv _ => by cases hv⟩

theorem witness_IllFormedAccessGetsABusError :
    ∀ a ∈ [(⟨16, 0x000#21, .read⟩ : Access), ⟨32, 0x402#21, .write 1⟩],
      HostNext (host [.access a] 0 idle) (.access a) [] ∧ (a.width ≠ 32 ∨ a.off.toNat % 4 ≠ 0) := by
  unfold HostNext; decide

theorem witness_IdleBlockKeepsItsState : idle.eng.pending = false ∧ idle.env.todo = [] := by decide

/-- A program that ended while BUSY = 1, and a run that is final. -/
theorem witness_ProgramEndedWhileBusyIsStuck :
    EndedBusy (host [] 0 enc) ∧ Reaches 3 (host [] 0 enc) (host [] 0 enc) ∧ Reaches 0 idle idle ∧ Ended idle :=
  ⟨⟨rfl, rfl⟩, rfl, rfl, rfl, rfl⟩

theorem witness_ReadsAreIdempotent :
    AtOffsets [0x00C, 0x400, 0x100000] fun off => off.toNat % 4 = 0 ∧
      HostNext (host [.read off, .read off] 0 idle) (.read off) [.read off] ∧
      ∃ t, step (host [.read off, .read off] 0 idle) = .next t ∧ HostNext t (.read off) [] := by
  intro off ho
  simp only [List.mem_cons, List.not_mem_nil, or_false] at ho
  rcases ho with rfl | rfl | rfl <;>
  exact ⟨by decide, ⟨rfl, fun h => by cases h⟩, _, rfl, rfl, fun h => by cases h⟩

end Sys2Proof.Tests
end

section
/-! PROOF. What a host step and an engine step do to the state, said once. -/

namespace Sys2Proof.Machine

open Sys2Proof.Claim

/-! ### Offsets and places (10_state.md R19) -/

/-- The word registers stand at multiples of 4 below the BLK window. -/
theorem regAt_eq_some_bound {n : Nat} {r : RegName} (h : regAt n = some r) :
    n < 0x400 ∧ n % 4 = 0 := by
  unfold regAt at h
  split at h
  case h_22 => cases h
  all_goals decide

theorem placeAt_of_regAt (c : Config) {off : Offset} {r : RegName} (h : regAt off.toNat = some r) :
    placeAt c off = .reg r := by
  obtain ⟨hlt, -⟩ := regAt_eq_some_bound h
  rw [placeAt, placeAtNat, if_neg (by omega), if_neg (by omega), if_neg (by omega), h]

/-- How far the half `hi` stands from the first byte of its window entry (10_state.md R41, R43). -/
def halfOffset (hi : Bool) : Nat := if hi then 4 else 0

@[simp] theorem halfOffset_false : halfOffset false = 0 := rfl

@[simp] theorem halfOffset_true : halfOffset true = 4 := rfl

/-- Both halves of an entry stand at multiples of 4 (20_memory.md R50). -/
theorem aligned_of_halfOffset {n base k : Nat} {hi : Bool} (hbase : base % 4 = 0)
    (h : n = base + (8 * k + halfOffset hi)) : n % 4 = 0 := by
  cases hi <;> simp only [halfOffset_false, halfOffset_true] at h <;> omega

/-- An offset `d` bytes into a window of 64-bit entries names the entry and its half. -/
theorem windowIndex_eq (k : Fin 64) (hi : Bool) :
    windowIndex (8 * k.val + halfOffset hi) = k ∧
      decide ((8 * k.val + halfOffset hi) % 8 = 4) = hi := by
  cases hi with
  | false => simp [windowIndex, Fin.ext_iff]
  | true =>
    simp [windowIndex, Fin.ext_iff]
    omega

theorem placeAt_cosrom (c : Config) {off : Offset} (k : Fin 64) (hi : Bool)
    (h : off.toNat = 0x600 + (8 * k.val + halfOffset hi)) : placeAt c off = .cosrom k hi := by
  have hlt : halfOffset hi ≤ 4 := by cases hi <;> decide
  obtain ⟨hk, hh⟩ := windowIndex_eq k hi
  rw [placeAt, placeAtNat, if_neg (by omega), if_pos (by omega), h, Nat.add_sub_cancel_left, hk, hh]

theorem placeAt_blk (c : Config) {off : Offset} (k : Fin 64) (hi : Bool)
    (h : off.toNat = 0x400 + (8 * k.val + halfOffset hi)) : placeAt c off = .blk k hi := by
  have hlt : halfOffset hi ≤ 4 := by cases hi <;> decide
  obtain ⟨hk, hh⟩ := windowIndex_eq k hi
  rw [placeAt, placeAtNat, if_neg (by omega), if_neg (by omega), if_pos (by omega), h,
    Nat.add_sub_cancel_left, hk, hh]

/-- Every offset of the COSROM window, aligned or not, falls in an entry. -/
theorem placeAt_cosrom_window (c : Config) {off : Offset} (hlo : 0x600 ≤ off.toNat)
    (hhi : off.toNat < 0x800) : ∃ k hi, placeAt c off = .cosrom k hi :=
  ⟨_, _, by rw [placeAt, placeAtNat, if_neg (by omega), if_pos ⟨hlo, hhi⟩]⟩

/-- A DMEM place is the address `off - 0x100000`, inside DMEM (10_state.md R45). -/
theorem placeAt_eq_dmem {c : Config} {off : Offset} {a : Nat} (h : placeAt c off = .dmem a) :
    off.toNat = 0x100000 + a ∧ a < c.dmemSize := by
  rw [placeAt, placeAtNat] at h
  split_ifs at h with hwin hin
  · rw [Place.dmem.injEq] at h
    exact ⟨by omega, h ▸ hin⟩
  · cases hr : regAt off.toNat <;> simp [hr] at h

/-! ### The host's step -/

/-- At the host's turn the step performs the next statement of the program. -/
theorem step_of_hostNext {s : State} {h : HostStmt} {rest : List HostStmt} (hn : HostNext s h rest) :
    step s = hostStmt h (s.popTodo rest) := by
  obtain ⟨htodo, hdelay⟩ := hn
  have hturn : s.engineTurn = false := by
    rw [← Bool.not_eq_true, State.engineTurn_iff]
    exact fun ⟨hp, hd, _⟩ => hdelay hp hd
  simp [step, hturn, hostTurn, htodo]

/-- At the engine's turn the step is the engine's. -/
theorem step_of_engineNext {s : State} (he : EngineNext s) : step s = engineStep s :=
  if_pos ((State.engineTurn_iff s).2 he)

theorem hostStmt_read {off : Offset} (h4 : off.toNat % 4 = 0) (s : State) :
    hostStmt (.read off) s = .next (s.hostRead off) := by
  simp [hostStmt, HostStmt.read, hostAccess, Access.wellFormed, h4]

theorem hostStmt_write {off : Offset} (h4 : off.toNat % 4 = 0) (v : Word) (s : State) :
    hostStmt (.write off v) s = .next (s.hostWrite off v) := by
  simp [hostStmt, HostStmt.write, hostAccess, Access.wellFormed, h4]

@[simp] theorem State.readPlace_popTodo (s : State) (rest : List HostStmt) (free : Word) (p : Place) :
    (s.popTodo rest).readPlace free p = s.readPlace free p := by
  cases p with
  | reg r => cases r <;> rfl
  | blk | cosrom | dmem | reserved => rfl

/-- A read depends on the draw index and not on the rest of the bookkeeping. -/
@[simp] theorem State.readWindow_popTodo (s : State) (rest : List HostStmt) (off : Offset) :
    (s.popTodo rest).readWindow off = s.readWindow off :=
  State.readPlace_popTodo ..

section HostAccess

variable {s : State} {off : Offset} {rest : List HostStmt}

/-- A host read answers what the window shows and changes nothing of the block (20_memory.md R63). -/
theorem readGives_readWindow (hn : HostNext s (.read off) rest) (h4 : off.toNat % 4 = 0) :
    ReadGives s rest (s.readWindow off) := by
  rw [ReadGives, step_of_hostNext hn, hostStmt_read h4]
  rw [State.hostRead, State.readWindow_popTodo]
  rfl

/-- A read of a word register is exact while BUSY = 0, and for all but the result registers always
(70_reset_and_hazards.md R149). -/
theorem readWindow_of_reg {r : RegName} (hr : regAt off.toNat = some r)
    (hexact : s.busy = false ∨ r.isResult = false) : s.readWindow off = s.readReg r := by
  rw [State.readWindow, placeAt_of_regAt _ hr]
  rcases hexact with h | h <;> simp [State.readPlace, h]

theorem readGives_reg {r : RegName} (hn : HostNext s (.read off) rest)
    (hr : regAt off.toNat = some r) (hexact : s.busy = false ∨ r.isResult = false) :
    ReadGives s rest (s.readReg r) :=
  readWindow_of_reg hr hexact ▸ readGives_readWindow hn (regAt_eq_some_bound hr).2

variable {v : Word}

/-- A host write performs the write of its place and takes one draw. -/
theorem step_of_hostWrite {p : Place} (hn : HostNext s (.write off v) rest)
    (h4 : off.toNat % 4 = 0) (hp : placeAt s.cfg off = p) :
    step s = .next (((s.popTodo rest).writePlace v p).useDraws 1) := by
  rw [step_of_hostNext hn, hostStmt_write h4, State.hostWrite, State.writeWindow,
    State.popTodo_cfg, hp]

/-- A write whose place leaves the block as `t` is and the bookkeeping alone. -/
theorem writeGives_of_writePlace {p : Place} {t : State} (hn : HostNext s (.write off v) rest)
    (h4 : off.toNat % 4 = 0) (hp : placeAt s.cfg off = p)
    (hw : (s.popTodo rest).writePlace v p = t.popTodo rest) (henv : t.env = s.env) :
    WriteGives s rest t := by
  rw [WriteGives, step_of_hostWrite hn h4 hp, hw, ← henv]
  rfl

/-- The same for a write of a word register. -/
theorem writeGives_of_writeReg {r : RegName} {t : State} (hn : HostNext s (.write off v) rest)
    (hr : regAt off.toNat = some r)
    (hw : (s.popTodo rest).writeReg v r = t.popTodo rest) (henv : t.env = s.env) :
    WriteGives s rest t :=
  writeGives_of_writePlace hn (regAt_eq_some_bound hr).2 (placeAt_of_regAt _ hr) hw henv

end HostAccess

/-- While BUSY = 1 a guarded write only sets BUSY_WR (70_reset_and_hazards.md R148). -/
theorem whenIdle_popTodo_of_busy {s : State} (h : s.eng.pending = true) (rest : List HostStmt)
    (store : State → State) : whenIdle (s.popTodo rest) store = (lostWrite s).popTodo rest :=
  if_pos h

theorem whenIdle_popTodo_of_idle {s : State} (h : s.eng.pending = false) (rest : List HostStmt)
    (store : State → State) : whenIdle (s.popTodo rest) store = store (s.popTodo rest) :=
  if_neg (Bool.eq_false_iff.1 h)

/-- Bit 1 of a CTRL write asks for a soft reset, whatever bit 0 is (10_state.md R29). -/
theorem State.writeCtrl_of_reset {v : Word} (h : v.getLsbD 1 = true) (s : State) :
    s.writeCtrl v = s.softReset := if_pos h

theorem State.writeCtrl_of_noReset {v : Word} (h : v.getLsbD 1 = false) (s : State) :
    s.writeCtrl v = { s with regs := { s.regs with ctrlIe := v.getLsbD 0 } } :=
  if_neg (Bool.eq_false_iff.1 h)

@[simp] theorem State.writeCtrl_cfg (s : State) (v : Word) : (s.writeCtrl v).cfg = s.cfg := by
  cases h : v.getLsbD 1 with
  | false => rw [State.writeCtrl_of_noReset h]
  | true => rw [State.writeCtrl_of_reset h, State.softReset_cfg]

@[simp] theorem State.writeWindow_cfg (s : State) (off : Offset) (v : Word) :
    (s.writeWindow off v).cfg = s.cfg := by
  unfold State.writeWindow
  obtain hw | ⟨-, hw⟩ | hw | hw | ⟨-, hw⟩ | ⟨-, x, y, z, hw⟩ | ⟨-, k, hi, hw⟩ | ⟨-, a, -, hw⟩ :=
    State.writePlace_cases s v (placeAt s.cfg off) <;> simp [hw]

@[simp] theorem State.hostWrite_cfg (s : State) (off : Offset) (v : Word) :
    (s.hostWrite off v).cfg = s.cfg := s.writeWindow_cfg off v

/-! ### What a command writes before it completes (60_exceptions.md R125) -/

/-- The writes a command can have made when it completes, each with the bounds its checks gave. -/
inductive CommandWrites (s : State) : State → Prop where
  /-- A check failed, or there is nothing to write. -/
  | nothing : CommandWrites s s
  /-- FDCT, IDCT (40_transform.md R96, R97). -/
  | block (x : Block) (nonfinite : Bool) (n : Nat) :
      CommandWrites s (((s.writeBlock x).setFpNonfinite nonfinite).useDraws n)
  /-- REP3_ENC, REP3_DEC (41_repetition.md R102, R104): `n` output bits at `dst`. -/
  | stream (dst n : Nat) (bs : List Byte) (hlen : bs.length = nbytes n)
      (hin : dst + nbytes n ≤ s.cfg.dmemSize) :
      CommandWrites s ((s.writeMem dst bs).setOut (BitVec.ofNat 32 n) (BitVec.ofNat 32 (nbytes n)))
  /-- CRC32 (42_frame.md R109). -/
  | crc (w : Word) : CommandWrites s (s.setCrcRes w)
  /-- HDR_BUILD (42_frame.md R110): the 16 header bytes at ARG0. -/
  | built (bs : List Byte) (w : Word) (hlen : bs.length = 16)
      (hin : s.operand0 + (16 + s.operand1) ≤ s.cfg.dmemSize) :
      CommandWrites s (((s.writeMem s.operand0 bs).setCrcRes w).setOut 0
        (BitVec.ofNat 32 (16 + s.operand1)))
  /-- HDR_PARSE that stops at MAGIC or at the length (42_frame.md R111). -/
  | header (h : Header) : CommandWrites s (s.recordHeader h)
  /-- HDR_PARSE that stops at the CRC. -/
  | headerCrc (h : Header) (w : Word) : CommandWrites s ((s.recordHeader h).setCrcRes w)
  /-- HDR_PARSE that succeeds. -/
  | parsed (h : Header) (w : Word) (hin : s.operand0 + (16 + h.len.toNat) ≤ s.cfg.dmemSize) :
      CommandWrites s ((((s.recordHeader h).setCrcRes w).setPayloadAddr
        (BitVec.ofNat 32 (s.operand0 + 16))).setOut 0 h.len)

/-- `t` is the state after a command that started in `s`: its writes, then `complete`, whose ERR_INFO is
0 where there is no error. -/
def CommandCompletes (s t : State) : Prop :=
  ∃ u code info, CommandWrites s u ∧ (code = .none → info = 0) ∧ t = u.complete code info

theorem CommandCompletes.success {s u : State} (h : CommandWrites s u) :
    CommandCompletes s (u.complete .none 0) := ⟨u, .none, 0, h, fun _ => rfl, rfl⟩

theorem CommandCompletes.error {s u : State} {code : ErrCode} (h : CommandWrites s u)
    (hcode : code ≠ .none) (info : Word) : CommandCompletes s (u.complete code info) :=
  ⟨u, code, info, h, fun hc => absurd hc hcode, rfl⟩

theorem rep3Check_error_code {c : Config} {p : Rep3Plan} {e : CmdError}
    (h : rep3Check c p = .error e) : e.code ≠ .none := by
  unfold rep3Check at h
  split_ifs at h <;> cases h <;> simp

theorem rep3DecCheck_error_code {s : State} {e : CmdError} (h : rep3DecCheck s = .error e) :
    e.code ≠ .none := by
  unfold rep3DecCheck at h
  split_ifs at h
  · cases h
    simp
  · exact rep3Check_error_code h

theorem rep3DecCheck_eq_ok {s : State} {q : Rep3Plan} (h : rep3DecCheck s = .ok q) :
    q.dst + q.nbOut ≤ s.cfg.dmemSize := by
  unfold rep3DecCheck at h
  split_ifs at h
  obtain ⟨rfl, -, hdst, -⟩ := (rep3Check_eq_ok ..).1 h
  exact hdst

theorem hdrBuildCheck_error_code {s : State} {e : CmdError} (h : hdrBuildCheck s = .error e) :
    e.code ≠ .none := by
  unfold hdrBuildCheck at h
  split_ifs at h <;> cases h <;> simp

theorem runTransform_completes {i : Instr} {ref : CosTable → Block → Block} {impl : Block → Block}
    {s t : State} (h : runTransform i ref impl s = .next t) : CommandCompletes s t := by
  obtain ⟨x, -, hx⟩ | ⟨-, hx⟩ := runTransform_cases i ref impl s
  · cases hx.symm.trans h
    exact .success (.block ..)
  · cases hx.symm.trans h

theorem runRep3_completes {i : Instr} {check : Except CmdError Rep3Plan}
    {bit : List Byte → Nat → Bool} {s t : State}
    (herr : ∀ e, check = .error e → e.code ≠ .none)
    (hok : ∀ p, check = .ok p → p.dst + p.nbOut ≤ s.cfg.dmemSize)
    (h : runRep3 i check bit s = .next t) : CommandCompletes s t := by
  obtain ⟨e, he, hx⟩ | ⟨p, -, -, hx⟩ | ⟨p, bs, hp, -, hx⟩ := runRep3_cases i check bit s
  · cases hx.symm.trans h
    exact .error .nothing (herr e he) _
  · cases hx.symm.trans h
  · cases hx.symm.trans h
    exact .success (.stream _ _ _ (packBits_length ..) (hok p hp))

theorem execCrc32_completes {s t : State} (h : execCrc32 s = .next t) : CommandCompletes s t := by
  unfold execCrc32 at h
  split at h
  case isTrue =>
    cases h
    exact .error .nothing (by simp) _
  case isFalse =>
    split at h
    · cases h
    · cases h
      exact .success (.crc _)

theorem execHdrBuild_completes {s t : State} (h : execHdrBuild s = .next t) :
    CommandCompletes s t := by
  unfold execHdrBuild at h
  split at h
  case h_1 e he =>
    cases h
    exact .error .nothing (hdrBuildCheck_error_code he) _
  case h_2 hok =>
    obtain ⟨-, -, hin⟩ := (hdrBuildCheck_eq_ok s).1 hok
    split at h
    · cases h
    · cases h
      exact .success (.built _ _ (Header.toBytes_length _) hin)

theorem execHdrParse_completes {s t : State} (h : execHdrParse s = .next t) :
    CommandCompletes s t := by
  unfold execHdrParse at h
  split at h
  case isTrue =>
    cases h
    exact .error .nothing (by simp) _
  case isFalse hrange =>
    have hin : s.operand0 + s.operand1 ≤ s.cfg.dmemSize := by simpa [inRange] using hrange
    split at h
    case isTrue =>
      cases h
      exact .error .nothing (by simp) _
    case isFalse =>
      split at h
      case h_1 => cases h
      case h_2 bytes _ =>
        obtain ⟨-, hx⟩ | ⟨-, -, hx⟩ | ⟨-, hlen, ⟨-, hx⟩ | ⟨_, -, ⟨-, hx⟩ | ⟨-, hx⟩⟩⟩ :=
          parseFrom_cases (Header.ofBytes bytes) (s.recordHeader (Header.ofBytes bytes))
        · cases hx.symm.trans h
          exact .error (.header _) (by simp) _
        · cases hx.symm.trans h
          exact .error (.header _) (by simp) _
        · cases hx.symm.trans h
        · cases hx.symm.trans h
          exact .error (.headerCrc _ _) (by simp) _
        · cases hx.symm.trans h
          have hlen' : 16 + (Header.ofBytes bytes).len.toNat ≤ s.operand1 := hlen
          exact .success (.parsed _ _ (by omega))

/-- Whatever command runs, a next state is its writes and its completion (60_exceptions.md R124). -/
theorem exec_completes {i : Instr} {s t : State} (h : exec i s = .next t) : CommandCompletes s t := by
  cases i with
  | nop =>
    cases h
    exact .success .nothing
  | fdct => exact runTransform_completes h
  | idct => exact runTransform_completes h
  | rep3Enc =>
    refine runRep3_completes (fun e he => rep3Check_error_code he) (fun p hp => ?_) h
    obtain ⟨rfl, -, hdst, -⟩ := (rep3Check_eq_ok ..).1 hp
    exact hdst
  | rep3Dec =>
    exact runRep3_completes (fun e he => rep3DecCheck_error_code he)
      (fun p hp => rep3DecCheck_eq_ok hp) h
  | crc32 => exact execCrc32_completes h
  | hdrBuild => exact execHdrBuild_completes h
  | hdrParse => exact execHdrParse_completes h

/-- An ILLEGAL word completes too (30_encoding.md R75). -/
theorem engineStep_completes {s t : State} (h : engineStep s = .next t) : CommandCompletes s t := by
  obtain ⟨i, -, hx⟩ | ⟨e, -, hx⟩ := engineStep_cases s
  · exact exec_completes (hx.symm.trans h)
  · cases hx.symm.trans h
    exact .error .nothing (by simp) _

theorem CommandWrites.frame {s u : State} (h : CommandWrites s u) :
    u.cfg = s.cfg ∧ u.regs.arg0 = s.regs.arg0 ∧ u.regs.arg1 = s.regs.arg1 ∧
      u.regs.arg2 = s.regs.arg2 := by
  cases h <;> simp

/-- No command writes the parameters or an operand register (10_state.md R18, R20). -/
theorem CommandCompletes.frame {s t : State} (h : CommandCompletes s t) :
    t.cfg = s.cfg ∧ t.regs.arg0 = s.regs.arg0 ∧ t.regs.arg1 = s.regs.arg1 ∧
      t.regs.arg2 = s.regs.arg2 := by
  obtain ⟨u, code, info, hu, -, rfl⟩ := h
  exact hu.frame

/-! ### Everything a step can answer -/

/-- A statement of the host program reads, writes or starts the block again. -/
theorem hostStmt_next_cases {h : HostStmt} {s t : State} (hs : hostStmt h s = .next t) :
    (∃ e, t = { s with env := e }) ∨
    (∃ off v, off.toNat % 4 = 0 ∧ t = s.hostWrite off v) ∨
    t = s.powerCycle.useDraws 1 := by
  cases h with
  | access a =>
    rw [hostStmt, hostAccess] at hs
    split at hs
    case isTrue => cases hs
    case isFalse hwf =>
      have h4 : a.off.toNat % 4 = 0 := by
        simp only [Access.wellFormed, Bool.not_eq_true', Bool.not_eq_false, Bool.and_eq_true,
          beq_iff_eq] at hwf
        exact hwf.2
      split at hs
      · cases hs
        exact .inl ⟨_, rfl⟩
      · cases hs
        exact .inr (.inl ⟨a.off, _, h4, rfl⟩)
  | expect off mask v =>
    rw [hostStmt, hostExpect] at hs
    split_ifs at hs
    cases hs
    exact .inl ⟨_, rfl⟩
  | wait =>
    cases hs
    exact .inl ⟨_, rfl⟩
  | powerOnReset =>
    cases hs
    exact .inr (.inr rfl)

/-- The engine completes a command, or the host changes only the bookkeeping, writes, or starts the
block again. -/
theorem step_next_cases {s t : State} (hs : step s = .next t) :
    (s.engineTurn = true ∧ CommandCompletes s t) ∨
    (∃ e, t = { s with env := e }) ∨
    (∃ rest off v, off.toNat % 4 = 0 ∧ t = (s.popTodo rest).hostWrite off v) ∨
    (∃ rest, t = (s.popTodo rest).powerCycle.useDraws 1) := by
  obtain ⟨hturn, hx⟩ | ⟨-, h, rest, -, hx⟩ | ⟨-, hx⟩ := step_cases s
  · exact .inl ⟨hturn, engineStep_completes (hx.symm.trans hs)⟩
  · obtain ⟨e, rfl⟩ | ⟨off, v, h4, rfl⟩ | rfl := hostStmt_next_cases (hx.symm.trans hs)
    · exact .inr (.inl ⟨e, rfl⟩)
    · exact .inr (.inr (.inl ⟨rest, off, v, h4, rfl⟩))
    · exact .inr (.inr (.inr ⟨rest, rfl⟩))
  · cases hx.symm.trans hs
    exact .inr (.inl ⟨s.env, rfl⟩)

end Sys2Proof.Machine
end

section
/-! PROOF. Every step keeps the machine's invariant. -/

namespace Sys2Proof.Machine

/-! ### The part of the invariant that acceptance and completion do not touch -/

/-- The invariant without what it says of a pending command and of ERR_INFO. -/
structure State.DataInv (s : State) : Prop where
  cfgLegal : s.cfg.legal = true
  dmemWf : s.dmem.wf
  dmemInside : ∀ cell ∈ s.dmem, cell.1 < s.cfg.dmemSize
  cmdLatched : s.regs.cmd = s.eng.lcmd
  hdrFields : s.regs.hdrVersion.toNat < 2 ^ 8 ∧ s.regs.hdrScheme.toNat < 2 ^ 8 ∧
    s.regs.hdrRsvd.toNat < 2 ^ 16
  payloadInside : s.regs.payloadAddr.toNat ≤ s.cfg.dmemSize
  outBytesInside : s.regs.outBytes.toNat ≤ s.cfg.dmemSize
  outBitsInside : s.regs.outBits.toNat ≤ 8 * s.cfg.dmemSize

theorem State.Inv.dataInv {s : State} (h : s.Inv) : s.DataInv := { h with }

theorem toNat_ofNat_le {n b : Nat} (h : n ≤ b) : (BitVec.ofNat 32 n).toNat ≤ b := by
  rw [BitVec.toNat_ofNat]
  exact (Nat.mod_le ..).trans h

/-- A value widened to 32 bits keeps its bound. -/
theorem toNat_setWidth_lt {w : Nat} (hw : w ≤ 32) (x : BitVec w) :
    (x.setWidth 32).toNat < 2 ^ w := by
  rw [BitVec.toNat_setWidth_of_le hw]
  exact x.isLt

/-- DMEM stays inside its size under a write that does. -/
theorem writeBytes_inside {m : Memory} {size a : Nat} {bs : List Byte}
    (hm : ∀ cell ∈ m, cell.1 < size) (hin : a + bs.length ≤ size) :
    ∀ cell ∈ m.writeBytes a bs, cell.1 < size := by
  intro cell hc
  rcases Memory.mem_writeBytes hc with h | h
  · omega
  · exact hm cell h

namespace State.DataInv

variable {s : State}

theorem writeMem (h : s.DataInv) {a : Nat} {bs : List Byte} (hin : a + bs.length ≤ s.cfg.dmemSize) :
    (s.writeMem a bs).DataInv :=
  { h with
    dmemWf := Memory.writeBytes_wf h.dmemWf a bs
    dmemInside := writeBytes_inside h.dmemInside hin }

theorem setCrcRes (h : s.DataInv) (w : Word) : (s.setCrcRes w).DataInv := { h with }

theorem setOut (h : s.DataInv) {bits bytes : Word} (hbits : bits.toNat ≤ 8 * s.cfg.dmemSize)
    (hbytes : bytes.toNat ≤ s.cfg.dmemSize) : (s.setOut bits bytes).DataInv :=
  { h with
    outBytesInside := hbytes
    outBitsInside := hbits }

theorem setPayloadAddr (h : s.DataInv) {a : Word} (ha : a.toNat ≤ s.cfg.dmemSize) :
    (s.setPayloadAddr a).DataInv :=
  { h with payloadInside := ha }

theorem recordHeader (h : s.DataInv) (hd : Header) : (s.recordHeader hd).DataInv :=
  { h with
    hdrFields := ⟨toNat_setWidth_lt (by decide) _, toNat_setWidth_lt (by decide) _,
      toNat_setWidth_lt (by decide) _⟩ }

/-- The writes of a command keep DMEM and the result registers in their bounds. -/
theorem commandWrites (h : s.DataInv) {u : State} (hu : CommandWrites s u) : u.DataInv := by
  cases hu with
  | nothing => exact h
  | block x nonfinite n => exact { h with }
  | stream dst n bs hlen hin =>
    have hbytes : nbytes n ≤ s.cfg.dmemSize := by omega
    exact (h.writeMem (hlen ▸ hin)).setOut (toNat_ofNat_le ((nbytes_le_iff ..).1 hbytes))
      (toNat_ofNat_le hbytes)
  | crc w => exact h.setCrcRes w
  | built bs w hlen hin =>
    have h16 : s.operand0 + bs.length ≤ s.cfg.dmemSize := by omega
    have hbytes : 16 + s.operand1 ≤ s.cfg.dmemSize := by omega
    exact ((h.writeMem h16).setCrcRes w).setOut (Nat.zero_le _) (toNat_ofNat_le hbytes)
  | header hd => exact h.recordHeader hd
  | headerCrc hd w => exact (h.recordHeader hd).setCrcRes w
  | parsed hd w hin =>
    have haddr : s.operand0 + 16 ≤ s.cfg.dmemSize := by omega
    have hlen : hd.len.toNat ≤ s.cfg.dmemSize := by omega
    exact (((h.recordHeader hd).setCrcRes w).setPayloadAddr (toNat_ofNat_le haddr)).setOut
      (Nat.zero_le _) hlen

/-- Completion ends the command, and ERR_INFO is 0 where there is no error. -/
theorem complete (h : s.DataInv) {code : ErrCode} {info : Word} (hinfo : code = .none → info = 0) :
    (s.complete code info).Inv :=
  { h with
    operandsHeld := fun hp => Bool.noConfusion hp
    pendingClear := fun hp => Bool.noConfusion hp
    infoZero := hinfo }

end State.DataInv

/-! ### What the host can do keeps the invariant -/

theorem State.dropCells_dmem_wf {s : State} (h : s.dmem.wf) (c : AbortCells) :
    (s.dropCells c).dmem.wf := by
  cases c with
  | none | block => exact h
  | dmem a n => exact Memory.eraseRange_wf h a n

theorem State.mem_dropCells_dmem {s : State} {c : AbortCells} {cell : Host.Cell}
    (h : cell ∈ (s.dropCells c).dmem) : cell ∈ s.dmem := by
  cases c with
  | none | block => exact h
  | dmem a n => exact Memory.mem_eraseRange h

/-- A soft reset keeps DMEM, but for the cells of a command it aborts. -/
theorem State.softReset_dmem (s : State) :
    s.softReset.dmem = if s.busy then (s.dropCells (abortCells s)).dmem else s.dmem := by
  unfold State.softReset
  split <;> rfl

namespace State.Inv

variable {s : State}

/-- Both resets: nothing is pending and every register is 0. -/
theorem of_reset (hlegal : s.cfg.legal = true) (hwf : s.dmem.wf)
    (hin : ∀ cell ∈ s.dmem, cell.1 < s.cfg.dmemSize) (hregs : s.regs = Regs.reset)
    (heng : s.eng = Engine.reset) : s.Inv where
  cfgLegal := hlegal
  dmemWf := hwf
  dmemInside := hin
  cmdLatched := by rw [hregs, heng]; rfl
  operandsHeld hp := by rw [heng] at hp; cases hp
  pendingClear hp := by rw [heng] at hp; cases hp
  infoZero _ := by rw [hregs]; rfl
  hdrFields := by rw [hregs]; decide
  payloadInside := by rw [hregs]; exact Nat.zero_le _
  outBytesInside := by rw [hregs]; exact Nat.zero_le _
  outBitsInside := by rw [hregs]; exact Nat.zero_le _

/-- The bookkeeping beside the block is not in the invariant. -/
theorem withEnv (h : s.Inv) (e : Env) : State.Inv { s with env := e } := { h with }

theorem noteBusyWrite (h : s.Inv) : s.noteBusyWrite.Inv :=
  { h with
    pendingClear := fun hp => by
      obtain ⟨hst, hinfo⟩ := h.pendingClear hp
      refine ⟨?_, hinfo⟩
      rw [State.noteBusyWrite_regs, hst] }

theorem writeStatus (h : s.Inv) (v : Word) : (s.writeStatus v).Inv :=
  { h with
    pendingClear := fun hp => by
      obtain ⟨hst, hinfo⟩ := h.pendingClear hp
      refine ⟨?_, hinfo⟩
      rw [State.writeStatus_regs, hst]
      rfl }

theorem softReset (h : s.Inv) : s.softReset.Inv := by
  refine of_reset ?_ ?_ ?_ rfl rfl
  · rw [State.softReset_cfg]
    exact h.cfgLegal
  · rw [State.softReset_dmem]
    split
    · exact State.dropCells_dmem_wf h.dmemWf _
    · exact h.dmemWf
  · rw [State.softReset_dmem, State.softReset_cfg]
    intro cell hc
    split at hc
    · exact h.dmemInside cell (State.mem_dropCells_dmem hc)
    · exact h.dmemInside cell hc

theorem writeCtrl (h : s.Inv) (v : Word) : (s.writeCtrl v).Inv := by
  cases hbit : v.getLsbD 1 with
  | false => exact State.writeCtrl_of_noReset hbit s ▸ { h with }
  | true => exact State.writeCtrl_of_reset hbit s ▸ h.softReset

theorem powerCycle (h : s.Inv) : s.powerCycle.Inv :=
  of_reset h.cfgLegal List.Pairwise.nil (fun _ hc => by cases hc) rfl rfl

/-- Acceptance latches CMD and the operands and clears the flags (60_exceptions.md R123). -/
theorem accept (h : s.Inv) (w : Word) : (s.accept w).Inv :=
  { h with
    cmdLatched := rfl
    operandsHeld := fun _ => ⟨rfl, rfl, rfl⟩
    pendingClear := fun _ => ⟨rfl, rfl⟩
    infoZero := fun _ => rfl }

/-- While nothing is pending the operand registers are free. -/
theorem setArgs (h : s.Inv) (hidle : s.busy = false) (x y z : Word) :
    State.Inv { s with regs := { s.regs with arg0 := x, arg1 := y, arg2 := z } } :=
  { h with operandsHeld := fun hp => Bool.noConfusion (hidle.symm.trans hp) }

theorem writeHalf (h : s.Inv) (k : Fin 64) (hi : Bool) (v : Word) : (s.writeHalf k hi v).Inv :=
  { h with }

theorem writeMem (h : s.Inv) {a : Nat} {bs : List Byte} (hin : a + bs.length ≤ s.cfg.dmemSize) :
    (s.writeMem a bs).Inv :=
  { h with
    dmemWf := Memory.writeBytes_wf h.dmemWf a bs
    dmemInside := writeBytes_inside h.dmemInside hin }

theorem writeWindow (h : s.Inv) {off : Offset} (h4 : off.toNat % 4 = 0) (v : Word) :
    (s.writeWindow off v).Inv := by
  unfold State.writeWindow
  obtain hw | ⟨-, hw⟩ | hw | hw | ⟨-, hw⟩ | ⟨hidle, x, y, z, hw⟩ | ⟨-, k, hi, hw⟩ | ⟨-, a, hp, hw⟩ :=
    State.writePlace_cases s v (placeAt s.cfg off) <;> rw [hw]
  · exact h
  · exact h.noteBusyWrite
  · exact h.writeCtrl v
  · exact h.writeStatus v
  · exact h.accept v
  · exact h.setArgs hidle x y z
  · exact h.writeHalf k hi v
  · obtain ⟨hoff, ha⟩ := placeAt_eq_dmem hp
    exact h.writeMem (dmemWord_inside s.cfg h.cfgLegal a ha (by omega))

theorem hostWrite (h : s.Inv) {off : Offset} (h4 : off.toNat % 4 = 0) (v : Word) :
    (s.hostWrite off v).Inv := (h.writeWindow h4 v).withEnv _

/-- The command's writes keep the data's bounds, and its completion gives back the rest. -/
theorem commandCompletes (h : s.Inv) {t : State} (ht : CommandCompletes s t) : t.Inv := by
  obtain ⟨u, code, info, hu, hinfo, rfl⟩ := ht
  exact (h.dataInv.commandWrites hu).complete hinfo

end State.Inv

/-- Settles O45: the engine's completion, the host's bookkeeping, a host write and power-on reset each
keep the invariant. -/
theorem stepKeepsTheInvariant : Obligations.StepKeepsTheInvariant := by
  intro s t h hs
  obtain ⟨-, hc⟩ | ⟨e, rfl⟩ | ⟨rest, off, v, h4, rfl⟩ | ⟨rest, rfl⟩ := step_next_cases hs
  · exact h.commandCompletes hc
  · exact h.withEnv e
  · exact State.Inv.hostWrite (h.withEnv _) h4 v
  · exact State.Inv.withEnv (State.Inv.powerCycle (h.withEnv _)) _

end Sys2Proof.Machine
end

section
/-! PROOF. The word registers of Table 10-1, the BLK and COSROM windows: what a host read returns and what
a host write does (10_state.md). -/

namespace Sys2Proof.Machine

open Sys2Proof.Claim

/-! ### Fields of the register words -/

/-- A single bit of a word stands at its own place only. -/
theorem bitAt_getLsbD (b : Bool) (n : Nat) {i : Nat} (hi : i < 32) :
    (bitAt b n).getLsbD i = (b && decide (i = n)) := by
  cases b with
  | false => simp [bitAt]
  | true =>
    rw [Bool.eq_iff_iff]
    simp [bitAt, hi]
    omega

/-- CTRL reads IE in bit 0 (10_state.md R29). -/
theorem State.ctrlWord_eq (s : State) :
    s.ctrlWord = if s.regs.ctrlIe then 0x00000001#32 else 0x00000000#32 := rfl

/-- Every bit of CFG (10_state.md R28). -/
theorem cfgWord_getLsbD (c : Config) {i : Nat} (hi : i < 32) :
    (cfgWord c).getLsbD i = (decide (i < 5) && c.dmemLog2.testBit i ||
      decide (c.transformImpl = .ref64) && decide (i = 8) || decide (i = 16)) := by
  rw [cfgWord, BitVec.getLsbD_or, BitVec.getLsbD_or, bitAt_getLsbD _ _ hi, bitAt_getLsbD _ _ hi,
    BitVec.getLsbD_ofNat, show 32 = 2 ^ 5 by rfl, Nat.testBit_mod_two_pow]
  simp [hi]

/-- CFG[4:0] holds a legal DMEM_LOG2 whole. -/
theorem cfgWord_dmemLog2 {c : Config} (hc : c.legal = true) :
    ((cfgWord c).extractLsb' 0 5).toNat = c.dmemLog2 := by
  simp only [Config.legal, Bool.and_eq_true, decide_eq_true_eq] at hc
  have hfield : (cfgWord c).extractLsb' 0 5 = BitVec.ofNat 5 c.dmemLog2 := by
    refine BitVec.eq_of_getLsbD_eq fun i hi => ?_
    rw [BitVec.getLsbD_extractLsb', cfgWord_getLsbD _ (by omega), BitVec.getLsbD_ofNat]
    simp [hi, show i ≠ 8 by omega, show i ≠ 16 by omega]
  rw [hfield, BitVec.toNat_ofNat]
  omega

/-- The bits of CFG between and above its fields read 0. -/
theorem cfgWord_reserved (c : Config) {lo len : Nat}
    (h : ∀ i, i < len → lo + i < 32 ∧ 5 ≤ lo + i ∧ lo + i ≠ 8 ∧ lo + i ≠ 16) :
    (cfgWord c).extractLsb' lo len = 0 := by
  refine BitVec.eq_of_getLsbD_eq fun i hi => ?_
  obtain ⟨h32, h5, h8, h16⟩ := h i hi
  rw [BitVec.getLsbD_extractLsb', cfgWord_getLsbD _ h32]
  simp [h5, h8, h16]

/-- The flags of STATUS by their places (10_state.md R30). -/
def State.statusFlag (s : State) : Nat → Bool
  | 0 => s.busy
  | 1 => s.regs.status.done
  | 2 => s.regs.status.err
  | 3 => s.regs.status.busyWr
  | 4 => s.regs.status.fpNonfinite
  | 5 => s.regs.status.hdrVerMismatch
  | 6 => s.regs.status.hdrSchemeUnsup
  | 7 => s.regs.status.hdrRsvdNz
  | _ => false

/-- STATUS bits 7:0 are the flags. -/
theorem State.statusWord_flag (s : State) {i : Nat} (hi : i < 8) :
    s.statusWord.getLsbD i = s.statusFlag i := by
  have h32 : i < 32 := by omega
  simp only [State.statusWord, BitVec.getLsbD_or, bitAt_getLsbD _ _ h32, BitVec.getLsbD_shiftLeft]
  interval_cases i <;> simp [State.statusFlag]

/-- STATUS bits 31:8 are ERR_CODE, with 0 above it. -/
theorem State.statusWord_code (s : State) {i : Nat} (h8 : 8 ≤ i) (hi : i < 32) :
    s.statusWord.getLsbD i = s.regs.status.errCode.toByte.getLsbD (i - 8) := by
  have hplace : ∀ n, n < 8 → i ≠ n := fun n hn => by omega
  simp only [State.statusWord, BitVec.getLsbD_or, bitAt_getLsbD _ _ hi, BitVec.getLsbD_shiftLeft]
  simp [hplace, hi, show ¬ i < 8 by omega, show i - 8 < 32 by omega]

theorem State.statusWord_errCode (s : State) :
    s.statusWord.extractLsb' 8 8 = s.regs.status.errCode.toByte := by
  refine BitVec.eq_of_getLsbD_eq fun i hi => ?_
  rw [BitVec.getLsbD_extractLsb', s.statusWord_code (by omega) (by omega), Nat.add_sub_cancel_left]
  simp [hi]

theorem State.statusWord_reserved (s : State) : s.statusWord.extractLsb' 16 16 = 0 := by
  refine BitVec.eq_of_getLsbD_eq fun i hi => ?_
  rw [BitVec.getLsbD_extractLsb', s.statusWord_code (by omega) (by omega),
    BitVec.getLsbD_of_ge _ _ (by omega)]
  simp

/-- STATUS.ERR is 1 exactly when ERR_CODE is not 0. -/
theorem Status.err_iff (st : Status) : st.err = true ↔ st.errCode.toByte ≠ 0 := by
  rw [Status.err, decide_eq_true_iff]
  cases st.errCode <;> decide

/-! ### BLK and COSROM -/

theorem State.writeHalf_blk_self (s : State) (k : Fin 64) (hi : Bool) (v : Word) :
    (s.writeHalf k hi v).blk[k] =
      if hi then { s.blk[k] with hi := some v } else { s.blk[k] with lo := some v } := by
  simp [State.writeHalf]

theorem State.writeHalf_blk_of_ne (s : State) {j k : Fin 64} (h : j ≠ k) (hi : Bool) (v : Word) :
    (s.writeHalf k hi v).blk[j] = s.blk[j] := by
  simp [State.writeHalf, Vector.getElem_set_ne, Fin.val_ne_of_ne h.symm]

/-- A read of either half of an element that has a value. -/
theorem halfOf_bits (lo hi : Word) (b : Bool) :
    halfOf (BlkElem.bits ⟨some lo, some hi⟩) b = if b then hi else lo := by
  cases b with
  | false => exact BitVec.extractLsb'_append_eq_right
  | true => exact BitVec.extractLsb'_append_eq_left

/-- COSROM entry 8i + u is T[i][u] (10_state.md R43). -/
theorem cosromEntry_eq (t : CosTable) (i u : Fin 8) (h : 8 * i.val + u.val < 64) :
    cosromEntry t ⟨8 * i.val + u.val, h⟩ = cosEntry t i u := by
  have hi : (8 * i.val + u.val) / 8 = i.val := by omega
  have hu : (8 * i.val + u.val) % 8 = u.val := by omega
  simp [cosromEntry, hi, hu]

/-! ### The word registers -/

/-- Settles O54: the place of each of these offsets is a register whose write does nothing. -/
theorem readOnlyRegistersIgnoreWrites : Obligations.ReadOnlyRegistersIgnoreWrites := by
  intro s off v rest hoff hn
  have hreg : ∃ r, regAt off.toNat = some r ∧ ∀ t : State, t.writeReg v r = t := by
    simp only [List.mem_cons, List.not_mem_nil, or_false] at hoff
    rcases hoff with h | h | h | h | h | h | h | h | h | h | h | h | h | h | h <;>
      exact ⟨_, by rw [h]; rfl, fun _ => rfl⟩
  obtain ⟨r, hr, hkeep⟩ := hreg
  exact writeGives_of_writeReg hn hr (hkeep _) rfl

/-- Settles O6: the guarded writes of ARG0 to ARG2, their exact reads, and the frame of a completion. -/
theorem operandRegistersHoldHostWrites : Obligations.OperandRegistersHoldHostWrites := by
  refine ⟨fun s off v rest hb hoff hn => ?_, fun s v rest hb => ⟨fun hn => ?_, fun hn => ?_, fun hn => ?_⟩,
    fun s rest => ⟨fun hn => ?_, fun hn => ?_, fun hn => ?_⟩, fun s t he hs => ?_⟩
  · simp only [List.mem_cons, List.not_mem_nil, or_false] at hoff
    rcases hoff with rfl | rfl | rfl <;>
      exact writeGives_of_writeReg hn rfl (by rw [State.writeReg, whenIdle_popTodo_of_busy hb]) rfl
  · exact writeGives_of_writeReg hn (r := .arg0) rfl
      (by rw [State.writeReg, whenIdle_popTodo_of_idle hb]; rfl) rfl
  · exact writeGives_of_writeReg hn (r := .arg1) rfl
      (by rw [State.writeReg, whenIdle_popTodo_of_idle hb]; rfl) rfl
  · exact writeGives_of_writeReg hn (r := .arg2) rfl
      (by rw [State.writeReg, whenIdle_popTodo_of_idle hb]; rfl) rfl
  · exact readGives_reg hn (r := .arg0) rfl (.inr rfl)
  · exact readGives_reg hn (r := .arg1) rfl (.inr rfl)
  · exact readGives_reg hn (r := .arg2) rfl (.inr rfl)
  · obtain ⟨-, hargs⟩ := (engineStep_completes ((step_of_engineNext he).symm.trans hs)).frame
    exact hargs

/-- Settles O10: every word register reads exactly while BUSY = 0, and CFG field by field. -/
theorem idleReadsReturnTheRegisters : Obligations.IdleReadsReturnTheRegisters := by
  intro s off rest hn hidle
  have reg : ∀ (o : Offset) (r : RegName), regAt o.toNat = some r → off = o →
      ReadGives s rest (s.readReg r) := by
    rintro o r hr rfl
    exact readGives_reg hn hr (.inl hidle)
  have cfgFields : off = 0x004#21 → s.cfg.legal = true → ∃ v, ReadGives s rest v ∧
      (v.extractLsb' 0 5).toNat = s.cfg.dmemLog2 ∧ v.extractLsb' 5 3 = 0 ∧
      (v.getLsbD 8 = true ↔ s.cfg.transformImpl = .ref64) ∧ v.extractLsb' 9 7 = 0 ∧
      v.getLsbD 16 = true ∧ v.extractLsb' 17 15 = 0 := by
    intro hoff hlegal
    refine ⟨_, reg _ .cfg rfl hoff, cfgWord_dmemLog2 hlegal, cfgWord_reserved _ (by omega), ?_,
      cfgWord_reserved _ (by omega), ?_, cfgWord_reserved _ (by omega)⟩
    · rw [State.readReg, cfgWord_getLsbD _ (by decide)]
      simp
    · rw [State.readReg, cfgWord_getLsbD _ (by decide)]
      simp
  exact ⟨reg _ .id rfl, cfgFields, reg _ .ctrl rfl, reg _ .status rfl, reg _ .cmd rfl,
    reg _ .errInfo rfl, reg _ .arg0 rfl, reg _ .arg1 rfl, reg _ .arg2 rfl, reg _ .crcRes rfl,
    reg _ .hdrMagic rfl, reg _ .hdrVersion rfl, reg _ .hdrScheme rfl, reg _ .hdrRsvd rfl,
    reg _ .hdrLen rfl, reg _ .hdrCrc rfl, reg _ .payloadAddr rfl, reg _ .outBits rfl,
    reg _ .outBytes rfl, reg _ .frameMagic rfl, reg _ .frameVersion rfl⟩

/-- Settles O13: bits 7:0 are the flags, bits 31:8 the error code, and a write acknowledges. -/
theorem statusFieldsAndWriteOneToClear : Obligations.StatusFieldsAndWriteOneToClear := by
  refine ⟨fun s => ?_, fun s rest hn => ?_, fun s v rest hn => ?_⟩
  · have flag : ∀ i, i < 8 → s.statusWord.getLsbD i = s.statusFlag i := fun i hi =>
      s.statusWord_flag hi
    refine ⟨flag 0 (by decide), flag 1 (by decide), ?_, flag 3 (by decide), flag 4 (by decide),
      flag 5 (by decide), flag 6 (by decide), flag 7 (by decide), ?_, s.statusWord_reserved⟩
    · rw [flag 2 (by decide), s.statusWord_errCode]
      exact Status.err_iff _
    · rw [s.statusWord_errCode]
      cases s.regs.status.errCode <;> rfl
  · exact readGives_reg hn (r := .status) rfl (.inr rfl)
  · exact writeGives_of_writeReg hn (r := .status) rfl rfl rfl

/-- Settles O14: bit 1 of a CTRL write chooses between the soft reset and the write of IE. -/
theorem ctrlWriteSetsIeOrResets : Obligations.CtrlWriteSetsIeOrResets := by
  refine ⟨fun s rest hn => readGives_reg hn (r := .ctrl) rfl (.inr rfl),
    fun s v rest hn => ⟨fun hbit => ?_, fun hbit => ?_⟩, fun s => ?_, rfl⟩
  · refine writeGives_of_writeReg hn (r := .ctrl) rfl ?_ rfl
    rw [State.writeReg, State.writeCtrl_of_noReset hbit]
    rfl
  · have hp : placeAt s.cfg 0x008#21 = .reg .ctrl := placeAt_of_regAt _ rfl
    have hreset : (s.popTodo rest).writePlace v (.reg .ctrl) = (s.popTodo rest).softReset :=
      State.writeCtrl_of_reset hbit _
    exact ⟨_, step_of_hostWrite hn rfl hp, by rw [hreset]; rfl, by rw [hreset]; rfl,
      by rw [hreset]; rfl⟩
  · rw [State.irq, Bool.and_eq_true, and_comm]

/-! ### The windows of 64-bit entries -/

/-- Settles O55: all 64 entries, both halves, whatever BUSY is. -/
theorem cosromWindowReadsTheConstants : Obligations.CosromWindowReadsTheConstants := by
  intro s i u off rest
  have h64 : 8 * i.val + u.val < 64 := by omega
  have place : ∀ hi, off.toNat = 0x600 + (8 * (8 * i.val + u.val) + halfOffset hi) →
      placeAt s.cfg off = .cosrom ⟨8 * i.val + u.val, h64⟩ hi := fun hi =>
    placeAt_cosrom s.cfg ⟨8 * i.val + u.val, h64⟩ hi
  have read : ∀ hi, off.toNat = 0x600 + (8 * (8 * i.val + u.val) + halfOffset hi) →
      HostNext s (.read off) rest → ReadGives s rest (halfOf (cosEntry s.cfg.cosTable i u) hi) := by
    intro hi hoff hn
    have hread : s.readWindow off = halfOf (cosEntry s.cfg.cosTable i u) hi := by
      rw [State.readWindow, place hi hoff, State.readPlace, cosromEntry_eq]
    exact hread ▸ readGives_readWindow hn (aligned_of_halfOffset rfl hoff)
  have highHalf : off.toNat = 0x604 + 8 * (8 * i.val + u.val) →
      off.toNat = 0x600 + (8 * (8 * i.val + u.val) + halfOffset true) := by
    rw [halfOffset_true]
    omega
  refine ⟨read false, fun hoff => read true (highHalf hoff), fun v hoff hn => ?_⟩
  obtain ⟨hi, hb⟩ : ∃ hi, off.toNat = 0x600 + (8 * (8 * i.val + u.val) + halfOffset hi) := by
    rcases hoff with h | h
    · exact ⟨false, h⟩
    · exact ⟨true, highHalf h⟩
  exact writeGives_of_writePlace hn (aligned_of_halfOffset rfl hb) (place hi hb) rfl rfl

section BlkWindow

variable {s : State} {k : Fin 64} {hi : Bool} {off : Offset} {rest : List HostStmt}

/-- While BUSY = 0 a write replaces one half (10_state.md R41). -/
theorem writeGives_blk_idle (hoff : off.toNat = 0x400 + (8 * k.val + halfOffset hi))
    (hidle : s.eng.pending = false) {v : Word}
    (hn : HostNext s (.write off v) rest) : WriteGives s rest (s.writeHalf k hi v) :=
  writeGives_of_writePlace hn (aligned_of_halfOffset rfl hoff) (placeAt_blk s.cfg k hi hoff)
    (by rw [State.writePlace, whenIdle_popTodo_of_idle hidle]; rfl) rfl

theorem writeGives_blk_busy (hoff : off.toNat = 0x400 + (8 * k.val + halfOffset hi))
    (hbusy : s.eng.pending = true) {v : Word}
    (hn : HostNext s (.write off v) rest) : WriteGives s rest (lostWrite s) :=
  writeGives_of_writePlace hn (aligned_of_halfOffset rfl hoff) (placeAt_blk s.cfg k hi hoff)
    (by rw [State.writePlace, whenIdle_popTodo_of_busy hbusy]) rfl

/-- While BUSY = 0 an element with both its halves reads exactly. -/
theorem readGives_blk (hoff : off.toNat = 0x400 + (8 * k.val + halfOffset hi))
    (hidle : s.eng.pending = false) {x y : Word}
    (hk : s.blk[k] = ⟨some x, some y⟩) (hn : HostNext s (.read off) rest) :
    ReadGives s rest (if hi then y else x) := by
  have hbusy : s.busy = false := hidle
  have hread : s.readWindow off = if hi then y else x := by
    rw [State.readWindow, placeAt_blk s.cfg k hi hoff, State.readPlace, hbusy, hk, halfOf_bits]
    rfl
  exact hread ▸ readGives_readWindow hn (aligned_of_halfOffset rfl hoff)

end BlkWindow

/-- Settles O12: both halves of every element, while BUSY = 0 and while BUSY = 1. -/
theorem blkWindowReplacesOneHalf : Obligations.BlkWindowReplacesOneHalf := by
  intro s k rest
  have lo : (BitVec.ofNat 21 (0x400 + 8 * k.val)).toNat = 0x400 + (8 * k.val + halfOffset false) := by
    rw [BitVec.toNat_ofNat, halfOffset_false]
    omega
  have hi : (BitVec.ofNat 21 (0x404 + 8 * k.val)).toNat = 0x400 + (8 * k.val + halfOffset true) := by
    rw [BitVec.toNat_ofNat, halfOffset_true]
    omega
  refine ⟨fun hidle => ⟨fun v hn => ?_, fun v hn => ?_, fun x y hk => ⟨fun hn => ?_, fun hn => ?_⟩⟩,
    fun hbusy off hoff => ?_⟩
  · exact ⟨_, writeGives_blk_idle lo hidle hn, s.writeHalf_blk_self k false v,
      fun j hj => s.writeHalf_blk_of_ne hj false v, rfl⟩
  · exact ⟨_, writeGives_blk_idle hi hidle hn, s.writeHalf_blk_self k true v,
      fun j hj => s.writeHalf_blk_of_ne hj true v, rfl⟩
  · exact readGives_blk lo hidle hk hn
  · exact readGives_blk hi hidle hk hn
  · obtain ⟨b, hb⟩ : ∃ b, off.toNat = 0x400 + (8 * k.val + halfOffset b) := by
      rcases hoff with h | h
      · exact ⟨false, h⟩
      · exact ⟨true, by rw [halfOffset_true]; omega⟩
    exact ⟨fun v hn => writeGives_blk_busy hb hbusy hn,
      fun hn => ⟨_, readGives_readWindow hn (aligned_of_halfOffset rfl hb)⟩⟩

/-! ### The parameters -/

/-- Settles O47: no agent writes the parameters, and the constant places read them alone. -/
theorem configurationNeverChanges : Obligations.ConfigurationNeverChanges := by
  refine ⟨fun s t hs => ?_, fun s s' hcfg off hoff => ?_⟩
  · obtain ⟨-, hc⟩ | ⟨e, rfl⟩ | ⟨rest, off, v, -, rfl⟩ | ⟨rest, rfl⟩ := step_next_cases hs
    · exact hc.frame.1
    · rfl
    · exact State.hostWrite_cfg ..
    · rfl
  · rcases hoff with hreg | ⟨hlo, hhi⟩
    · have hconst : ∃ r, regAt off.toNat = some r ∧ r.isResult = false ∧
          s.readReg r = s'.readReg r := by
        simp only [List.mem_cons, List.not_mem_nil, or_false] at hreg
        rcases hreg with h | h | h | h <;>
          exact ⟨_, by rw [h]; rfl, rfl, by simp only [State.readReg, hcfg]⟩
      obtain ⟨r, hr, hres, hsame⟩ := hconst
      rw [readWindow_of_reg hr (.inr hres), readWindow_of_reg hr (.inr hres), hsame]
    · obtain ⟨k, hi, hp⟩ := placeAt_cosrom_window s'.cfg hlo hhi
      simp only [State.readWindow, hcfg, hp, State.readPlace]

end Sys2Proof.Machine
end

section
/-! PROOF. The host's accesses to the window: bus errors, reads, reserved offsets, the DMEM window, and what
a host step leaves of a pending command (20_memory.md). -/

namespace Sys2Proof.Machine

open Sys2Proof.Claim

/-! ### Ill-formed accesses and repeated reads -/

/-- An access of another width or alignment gets the bus error (20_memory.md R50). -/
theorem hostAccess_of_illFormed {a : Access} (h : a.wellFormed = false) (s : State) :
    hostAccess a s = .fault (.busError a) := by
  simp [hostAccess, h]

theorem Access.wellFormed_eq_false {a : Access} (h : a.width ≠ 32 ∨ a.off.toNat % 4 ≠ 0) :
    a.wellFormed = false := by
  rw [Access.wellFormed, Bool.and_eq_false_iff]
  exact h.imp beq_eq_false_iff_ne.2 beq_eq_false_iff_ne.2

/-- Settles O51: the access is not well formed, so it faults before it reaches the window. -/
theorem illFormedAccessGetsABusError : Obligations.IllFormedAccessGetsABusError := by
  intro s a rest hn hill
  rw [step_of_hostNext hn]
  exact hostAccess_of_illFormed (Access.wellFormed_eq_false hill) _

/-- Of the bookkeeping beside the block a read sees the draw index alone (log 5). -/
theorem State.readWindow_withEnv (s : State) {e : Env} (h : e.draws = s.env.draws) (off : Offset) :
    State.readWindow { s with env := e } off = s.readWindow off := by
  have samePlace : ∀ free p, State.readPlace { s with env := e } free p = s.readPlace free p := by
    intro free p
    cases p with
    | reg r => cases r <;> rfl
    | blk | cosrom | dmem | reserved => rfl
  rw [State.readWindow, State.readWindow, samePlace, h]
  rfl

/-- Settles O53: a read takes no draw, so the second one sees what the first one saw. -/
theorem readsAreIdempotent : Obligations.ReadsAreIdempotent := by
  intro s off rest h4 hn
  refine ⟨_, s.readWindow off, readGives_readWindow hn h4, rfl, rfl, fun hn' => ?_⟩
  have hsame := State.readWindow_withEnv s (e := { s.env with
    todo := .read off :: rest, delay := s.env.delay - 1, rdata := some (s.readWindow off) }) rfl off
  exact hsame ▸ readGives_readWindow hn' h4

/-! ### Reserved offsets -/

/-- No word register stands at an offset that Table 10-1 does not list. -/
theorem regAt_eq_none {c : Config} {n : Nat} (h : ¬ Listed c n) : regAt n = none := by
  unfold regAt
  split
  case h_22 => rfl
  all_goals exact absurd (.inl (by decide)) h

theorem placeAt_of_not_listed {c : Config} {off : Offset} (h : ¬ Listed c off.toNat) :
    placeAt c off = .reserved := by
  have hreg := regAt_eq_none h
  obtain ⟨-, hwindows⟩ := not_or.1 h
  obtain ⟨hblk, hdmem⟩ := not_or.1 hwindows
  rw [placeAt, placeAtNat, hreg]
  by_cases hwin : 0x100000 ≤ off.toNat
  · rw [if_pos hwin, if_neg (by omega)]
  · rw [if_neg hwin, if_neg (by omega), if_neg (by omega)]

/-- The gap after ARG2 and the DMEM window past DMEM_SIZE are in no row of Table 10-1. -/
theorem not_listed_gap_or_pastDmem {c : Config} {n : Nat} (h : n = 0x02C ∨ 0x100000 + c.dmemSize ≤ n) :
    ¬ Listed c n := by
  simp only [Listed, List.mem_cons, List.not_mem_nil, or_false]
  omega

/-- Settles O9: an offset that is not listed is a reserved place, which reads 0 and keeps nothing. -/
theorem reservedOffsetsReadZeroIgnoreWrites : Obligations.ReservedOffsetsReadZeroIgnoreWrites := by
  refine ⟨fun s off rest h4 hoff => ⟨fun hn => ?_, fun v hn => ?_⟩,
    fun c off hoff _ => not_listed_gap_or_pastDmem hoff⟩
  · have hread : s.readWindow off = 0 := by
      rw [State.readWindow, placeAt_of_not_listed hoff, State.readPlace]
    exact hread ▸ readGives_readWindow hn h4
  · exact writeGives_of_writePlace hn h4 (placeAt_of_not_listed hoff) rfl rfl

/-! ### The DMEM window -/

/-- The bytes written stand in their range. -/
theorem Memory.holds_writeBytes (m : Memory) (a : Nat) (bs : List Byte) :
    Holds (m.writeBytes a bs) a bs := fun k hk => by
  rw [m.read_writeBytes_inside a bs k hk, List.getElem?_eq_getElem hk]

theorem Memory.sameOutside_writeBytes (m : Memory) (a : Nat) (bs : List Byte) :
    SameOutside m (m.writeBytes a bs) a bs.length := fun x hx =>
  m.read_writeBytes_outside a bs x hx

/-- A lane of a DMEM word is its byte, where the byte has a value. -/
theorem dmemLane_of_read {m : Memory} {a j : Nat} {b : Byte} (h : m.read (a + j) = some b) (free : Word) :
    dmemLane m free a j = b := by
  rw [dmemLane, h, Option.getD_some]

/-- A word whose four bytes have values reads little-endian (20_memory.md R54). -/
theorem dmemWord_of_holds {m : Memory} {a : Nat} {b0 b1 b2 b3 : Byte} (h : Holds m a [b0, b1, b2, b3])
    (free : Word) : dmemWord m free a = b3 ++ b2 ++ b1 ++ b0 := by
  have lane : ∀ j b, j < 4 → [b0, b1, b2, b3][j]? = some b → dmemLane m free a j = b :=
    fun j b hj hb => dmemLane_of_read ((h j hj).trans hb) free
  rw [dmemWord, lane 0 b0 (by decide) rfl, lane 1 b1 (by decide) rfl, lane 2 b2 (by decide) rfl,
    lane 3 b3 (by decide) rfl, be32]

/-- Every legal DMEM fits the upper half of the window (10_state.md R45). -/
theorem dmemSize_le_of_legal {c : Config} (hc : c.legal = true) : c.dmemSize ≤ 0x100000 := by
  simp only [Config.legal, Bool.and_eq_true, decide_eq_true_eq] at hc
  exact Nat.pow_le_pow_right (n := 2) (i := c.dmemLog2) (j := 20) (by decide) hc.2

theorem toNat_dmemOffset {c : Config} (hc : c.legal = true) {a : Nat} (ha : a < c.dmemSize) :
    (BitVec.ofNat 21 (0x100000 + a)).toNat = 0x100000 + a := by
  have hsize := dmemSize_le_of_legal hc
  rw [BitVec.toNat_ofNat]
  omega

theorem placeAt_dmem {c : Config} {off : Offset} {a : Nat} (h : off.toNat = 0x100000 + a)
    (ha : a < c.dmemSize) : placeAt c off = .dmem a := by
  rw [placeAt, placeAtNat, h, if_pos (by omega), Nat.add_sub_cancel_left, if_pos ha]

section DmemWindow

variable {s : State} {off : Offset} {a : Nat} {rest : List HostStmt}

/-- While BUSY = 0 a write stores its four bytes in address order (20_memory.md R54). -/
theorem writeGives_dmem (hoff : off.toNat = 0x100000 + a) (ha : a < s.cfg.dmemSize) (h4 : a % 4 = 0)
    (hidle : s.eng.pending = false) {v : Word} (hn : HostNext s (.write off v) rest) :
    WriteGives s rest (s.writeMem a (laneBytes v)) :=
  writeGives_of_writePlace hn (by omega) (placeAt_dmem hoff ha)
    (by rw [State.writePlace, whenIdle_popTodo_of_idle hidle]; rfl) rfl

/-- While BUSY = 0 four bytes that have values read exactly. -/
theorem readGives_dmem (hoff : off.toNat = 0x100000 + a) (ha : a < s.cfg.dmemSize) (h4 : a % 4 = 0)
    (hidle : s.eng.pending = false) {b0 b1 b2 b3 : Byte} (hb : Holds s.dmem a [b0, b1, b2, b3])
    (hn : HostNext s (.read off) rest) : ReadGives s rest (b3 ++ b2 ++ b1 ++ b0) := by
  have hbusy : s.busy = false := hidle
  have hread : s.readWindow off = b3 ++ b2 ++ b1 ++ b0 := by
    rw [State.readWindow, placeAt_dmem hoff ha, State.readPlace, hbusy]
    exact dmemWord_of_holds hb _
  exact hread ▸ readGives_readWindow hn (by omega)

end DmemWindow

/-- Settles O11: the lanes of the word are the bytes in address order, both ways. -/
theorem dmemWindowIsLittleEndian : Obligations.DmemWindowIsLittleEndian := by
  intro s a rest hlegal hidle h4 ha
  have hoff := toNat_dmemOffset hlegal ha
  exact ⟨fun v hn => ⟨_, writeGives_dmem hoff ha h4 hidle hn, s.dmem.holds_writeBytes a (laneBytes v),
      s.dmem.sameOutside_writeBytes a (laneBytes v), rfl⟩,
    fun _ _ _ _ hb hn => readGives_dmem hoff ha h4 hidle hb hn⟩

/-! ### Host steps while a command is pending -/

/-- All that a host write can do while BUSY = 1: abort the command, or set IE, DONE and BUSY_WR
(70_reset_and_hazards.md R148). -/
theorem State.writeWindow_of_busy {s : State} (hb : s.busy = true) (off : Offset) (v : Word) :
    s.writeWindow off v = s.softReset ∨
    ∃ ie done busyWr, s.writeWindow off v = { s with regs := { s.regs with
      ctrlIe := ie, status := { s.regs.status with done := done, busyWr := busyWr } } } := by
  have notIdle : ∀ {p : Prop}, s.busy = false ∧ p → False := fun h => by simp [hb] at h
  unfold State.writeWindow
  obtain hw | ⟨-, hw⟩ | hw | hw | h | h | h | h := State.writePlace_cases s v (placeAt s.cfg off)
  · exact .inr ⟨_, _, _, hw⟩
  · exact .inr ⟨_, _, _, hw⟩
  · rw [hw]
    cases hbit : v.getLsbD 1 with
    | true => exact .inl (State.writeCtrl_of_reset hbit s)
    | false => exact .inr ⟨_, _, _, State.writeCtrl_of_noReset hbit s⟩
  · exact .inr ⟨_, _, _, hw⟩
  all_goals exact (notIdle h).elim

/-- Settles O49: what ends the command ends BUSY; any other host step writes only IE, DONE, BUSY_WR and
the bookkeeping. -/
theorem pendingCommandKeepsItsData : Obligations.PendingCommandKeepsItsData := by
  intro s t hp hne hs hpt
  obtain ⟨hturn, -⟩ | ⟨e, rfl⟩ | ⟨rest, off, v, -, rfl⟩ | ⟨rest, rfl⟩ := step_next_cases hs
  · exact absurd ((State.engineTurn_iff s).1 hturn) hne
  · simp [sameHeader, sameOutputs]
  · have hb : (s.popTodo rest).busy = true := hp
    rw [State.hostWrite] at hpt ⊢
    obtain hw | ⟨ie, done, busyWr, hw⟩ := State.writeWindow_of_busy hb off v
    · rw [hw] at hpt
      cases hpt
    · rw [hw]
      simp [sameHeader, sameOutputs]
  · cases hpt

end Sys2Proof.Machine
end

section
/-! PROOF. A command that reads a cell with no value faults (20_memory.md R61). -/

namespace Sys2Proof.Machine

open Sys2Proof.Claim

/-! ### What a command reads -/

/-- `MemRead` answers nothing exactly where some byte of the range has no value. -/
theorem Memory.readBytes_eq_none_iff (m : Memory) (a n : Nat) :
    m.readBytes a n = none ↔ ¬ HasBytes m a n := by
  rw [Memory.readBytes_eq_none]
  simp [HasBytes, Option.eq_none_iff_forall_ne_some]

theorem Memory.readBytes_of_holds {m : Memory} {a n : Nat} {bs : List Byte} (hlen : bs.length = n)
    (h : Holds m a bs) : m.readBytes a n = some bs :=
  (Memory.readBytes_eq_some ..).2 ⟨hlen, fun k hk => h k (hlen ▸ hk)⟩

/-- An element that lacks a half has no value. -/
theorem BlkElem.hasValue_eq_false {e : BlkElem} (h : e.lo = none ∨ e.hi = none) : e.hasValue = false := by
  rcases h with h | h <;> simp [BlkElem.hasValue, h]

/-! ### The checks that come before the read -/

/-- The model's checks of REP3_ENC pass where the spec's do (41_repetition.md R102). -/
theorem rep3EncCheck_of_checksPass {s : State} (h : EncChecksPass s) :
    rep3EncCheck s = .ok ⟨op0 s, bytesFor (op1 s), op2 s, 3 * op1 s⟩ := by
  obtain ⟨hsrc, hdst, hover⟩ := h
  exact (rep3Check_eq_ok ..).2 ⟨rfl, hsrc, hdst, by
    rwa [← Bool.not_eq_true, overlap_iff]⟩

/-- The model's checks of REP3_DEC pass where the spec's do (41_repetition.md R104). -/
theorem rep3DecCheck_of_checksPass {s : State} (h : DecChecksPass s) :
    rep3DecCheck s = .ok ⟨op0 s, bytesFor (op1 s), op2 s, op1 s / 3⟩ := by
  obtain ⟨hlen, hsrc, hdst, hover⟩ := h
  rw [rep3DecCheck, if_neg (show ¬ s.operand1 < 3 from Nat.not_lt.2 hlen)]
  exact (rep3Check_eq_ok ..).2 ⟨rfl, hsrc, hdst, by
    rwa [← Bool.not_eq_true, overlap_iff]⟩

/-- The model's checks of HDR_BUILD pass where the spec's do (42_frame.md R110). -/
theorem hdrBuildCheck_of_checksPass {s : State} (h : BuildChecksPass s) : hdrBuildCheck s = .ok () := by
  obtain ⟨hscheme, hin⟩ := h
  refine (hdrBuildCheck_eq_ok s).2 ⟨?_, ?_, hin⟩
  · rw [State.operandMbzZero, hscheme]
    rfl
  · rw [State.operandScheme, hscheme]
    rfl

theorem magic_of_magicMatches {s : State} {h : List Byte} (hm : MagicMatches s h) :
    (Header.ofBytes h).magic = magicWord s.cfg := by
  obtain ⟨h0, h1, h2, h3⟩ := hm
  rw [Header.ofBytes, magicWord, h0, h1, h2, h3]

/-! ### The faults -/

/-- A transform of a block with an element that has no value. -/
theorem runTransform_of_noValue (i : Instr) (ref : CosTable → Block → Block) (impl : Block → Block)
    {s : State} {k : Fin 64} (hk : (s.blk[k]).hasValue = false) :
    runTransform i ref impl s = .fault (.blkNoValue i) := by
  rw [runTransform, (s.readBlock_eq_none).2 ⟨k, hk⟩]

/-- A REP3 command whose checks pass and whose source has a byte with no value. -/
theorem runRep3_of_noValue (i : Instr) {check : Except CmdError Rep3Plan} (bit : List Byte → Nat → Bool)
    {s : State} {p : Rep3Plan} (hok : check = .ok p) (hsrc : ¬ HasBytes s.dmem p.src p.nbIn) :
    runRep3 i check bit s = .fault (.dmemNoValue i) := by
  simp only [runRep3, hok, (s.dmem.readBytes_eq_none_iff ..).2 hsrc]

theorem execCrc32_of_noValue {s : State} (hin : InRange s (op0 s) (op1 s))
    (h : ¬ HasBytes s.dmem (op0 s) (op1 s)) : execCrc32 s = .fault (.dmemNoValue .crc32) := by
  have hrange : inRange s.cfg s.operand0 s.operand1 = true := (inRange_iff ..).2 hin
  have hread : s.dmem.readBytes s.operand0 s.operand1 = none := (Memory.readBytes_eq_none_iff ..).2 h
  rw [execCrc32, hrange, hread]
  rfl

theorem execHdrBuild_of_noValue {s : State} (hok : BuildChecksPass s)
    (h : ¬ HasBytes s.dmem (op0 s + 16) (op1 s)) : execHdrBuild s = .fault (.dmemNoValue .hdrBuild) := by
  have hread : s.dmem.readBytes (s.operand0 + 16) s.operand1 = none :=
    (Memory.readBytes_eq_none_iff ..).2 h
  rw [execHdrBuild, hdrBuildCheck_of_checksPass hok, hread]

section HdrParse

variable {s : State} (hin : InRange s (op0 s) (op1 s)) (h16 : 16 ≤ op1 s)

include hin h16

/-- HDR_PARSE past its first two checks: where the 16 header bytes are there it records them and goes on
(42_frame.md R111). -/
theorem execHdrParse_of_inRange : execHdrParse s =
    (s.dmem.readBytes s.operand0 16).elim (.fault (.dmemNoValue .hdrParse)) fun bytes =>
      parseFrom (Header.ofBytes bytes) (s.recordHeader (Header.ofBytes bytes)) := by
  have hrange : inRange s.cfg s.operand0 s.operand1 = true := (inRange_iff ..).2 hin
  have hlong : ¬ s.operand1 < 16 := Nat.not_lt.2 h16
  rw [execHdrParse, hrange, if_neg (by decide), if_neg hlong]
  cases s.dmem.readBytes s.operand0 16 <;> rfl

theorem execHdrParse_of_noHeader (h : ¬ HasBytes s.dmem (op0 s) 16) :
    execHdrParse s = .fault (.dmemNoValue .hdrParse) := by
  have hread : s.dmem.readBytes s.operand0 16 = none := (Memory.readBytes_eq_none_iff ..).2 h
  rw [execHdrParse_of_inRange hin h16, hread, Option.elim_none]

theorem execHdrParse_of_header {bytes : List Byte} (hlen : bytes.length = 16)
    (h : Holds s.dmem (op0 s) bytes) : execHdrParse s =
      parseFrom (Header.ofBytes bytes) (s.recordHeader (Header.ofBytes bytes)) := by
  have hread : s.dmem.readBytes s.operand0 16 = some bytes := Memory.readBytes_of_holds hlen h
  rw [execHdrParse_of_inRange hin h16, hread, Option.elim_some]

end HdrParse

/-- HDR_PARSE past its MAGIC and length checks, the payload lacking a byte. -/
theorem parseFrom_of_noPayload {s : State} {h : Header} (hmagic : h.magic = magicWord s.cfg)
    (hlen : 16 + h.len.toNat ≤ s.operand1) (hb : ¬ HasBytes s.dmem (s.operand0 + 16) h.len.toNat) :
    parseFrom h s = .fault (.dmemNoValue .hdrParse) := by
  have hread := (Memory.readBytes_eq_none_iff ..).2 hb
  obtain ⟨hne, -⟩ | ⟨-, hlt, -⟩ | ⟨-, -, ⟨-, hfault⟩ | ⟨payload, hsome, -⟩⟩ := parseFrom_cases h s
  · exact absurd hmagic hne
  · omega
  · exact hfault
  · cases hread.symm.trans hsome

/-- Settles O31: each command's checks pass, and its read answers nothing. -/
theorem readingACellWithNoValueFaults : Obligations.ReadingACellWithNoValueFaults := by
  refine ⟨fun s k hk => ?_, fun s hok hb => ?_, fun s hok hb => ?_, fun s hin hb => ?_,
    fun s hok hb => ?_, fun s hin h16 hb => ?_, fun s h hin hlen hh hmagic hfits hb => ?_⟩
  · have hnone := BlkElem.hasValue_eq_false hk
    exact ⟨runTransform_of_noValue .fdct _ _ hnone, runTransform_of_noValue .idct _ _ hnone⟩
  · exact runRep3_of_noValue .rep3Enc _ (rep3EncCheck_of_checksPass hok) hb
  · exact runRep3_of_noValue .rep3Dec _ (rep3DecCheck_of_checksPass hok) hb
  · exact execCrc32_of_noValue hin hb
  · exact execHdrBuild_of_noValue hok hb
  · exact execHdrParse_of_noHeader hin h16 hb
  · exact (execHdrParse_of_header hin (by omega) hlen hh).trans
      (parseFrom_of_noPayload (magic_of_magicMatches hmagic) hfits hb)

end Sys2Proof.Machine
end

section
/-! PROOF. The decoder and the encoder agree on every word, and the engine's step runs the word it has
latched (30_encoding.md R74, R75). -/

namespace Sys2Proof

/-! ### The fields of a command word -/

/-- MBZ is 0 exactly in the words below 2^8. -/
theorem Word.mbz_eq_zero_iff (w : Word) : w.extractLsb' 8 24 = 0 ↔ w.toNat < 2 ^ 8 := by
  rw [← BitVec.toNat_inj, BitVec.extractLsb'_toNat, Nat.shiftRight_eq_div_pow]
  have hw := w.isLt
  simp only [BitVec.ofNat_eq_ofNat, BitVec.toNat_ofNat]
  omega

/-- With MBZ 0, OPC is the whole word. -/
theorem Word.toNat_opc_of_lt {w : Word} (h : w.toNat < 2 ^ 8) : (w.extractLsb' 0 8).toNat = w.toNat := by
  rw [BitVec.extractLsb'_toNat, Nat.shiftRight_zero, Nat.mod_eq_of_lt h]

/-! ### The opcodes -/

theorem encode_lt (i : Instr) : (encode i).toNat < 2 ^ 8 := by
  cases i <;> decide

/-- The opcode of a command is the value of its word (Table 30-2). -/
theorem decodeOpcode_eq_ok_iff (n : Nat) (i : Instr) : decodeOpcode n = .ok i ↔ n = (encode i).toNat := by
  constructor
  · intro h
    unfold decodeOpcode at h
    split at h <;> cases h <;> rfl
  · rintro rfl
    cases i <;> rfl

/-- The listed opcodes are those of the commands, no more and no fewer. -/
theorem mem_opcodes_iff (n : Nat) : n ∈ [0x00, 0x01, 0x02, 0x10, 0x11, 0x20, 0x21, 0x22] ↔
    ∃ i, n = (encode i).toNat := by
  constructor
  · have listed : ∀ m ∈ [0x00, 0x01, 0x02, 0x10, 0x11, 0x20, 0x21, 0x22],
        ∃ i, decodeOpcode m = .ok i := by
      simp [decodeOpcode]
    intro h
    obtain ⟨i, hi⟩ := listed n h
    exact ⟨i, (decodeOpcode_eq_ok_iff n i).1 hi⟩
  · rintro ⟨i, rfl⟩
    cases i <;> decide

/-! ### The decoder -/

/-- A word decodes to a command exactly when MBZ is 0 and OPC is that command's. -/
theorem decode_eq_ok_iff_fields (w : Word) (i : Instr) : decode w = .ok i ↔
    w.extractLsb' 8 24 = 0 ∧ (w.extractLsb' 0 8).toNat = (encode i).toNat := by
  rw [decode]
  split_ifs with hmbz
  · exact iff_of_false nofun fun h => hmbz h.1
  · rw [decodeOpcode_eq_ok_iff, and_iff_right (not_not.1 hmbz)]

/-- `decode` inverts `encode` on all 2^32 words. -/
theorem decode_eq_ok_iff (w : Word) (i : Instr) : decode w = .ok i ↔ w = encode i := by
  rw [decode_eq_ok_iff_fields, Word.mbz_eq_zero_iff]
  constructor
  · rintro ⟨hmbz, hopc⟩
    exact BitVec.eq_of_toNat_eq ((Word.toNat_opc_of_lt hmbz).symm.trans hopc)
  · rintro rfl
    exact ⟨encode_lt i, Word.toNat_opc_of_lt (encode_lt i)⟩

@[simp] theorem decode_encode (i : Instr) : decode (encode i) = .ok i :=
  (decode_eq_ok_iff ..).2 rfl

/-- The words that select a command (30_encoding.md R74). -/
theorem decode_isOk_iff (w : Word) : (∃ i, decode w = .ok i) ↔ w.extractLsb' 8 24 = 0 ∧
    (w.extractLsb' 0 8).toNat ∈ [0x00, 0x01, 0x02, 0x10, 0x11, 0x20, 0x21, 0x22] := by
  simp only [decode_eq_ok_iff_fields, exists_and_left, mem_opcodes_iff]

/-- Settles O2: `decode` inverts `encode`, and the opcodes of the commands are the listed ones. -/
theorem decodeAndEncodeAgreeOnEveryWord : Obligations.DecodeAndEncodeAgreeOnEveryWord :=
  ⟨fun w => ⟨decode_eq_ok_iff w, decode_isOk_iff w⟩, rfl, rfl, rfl, rfl, rfl, rfl, rfl, rfl⟩

/-- Settles O1: the words of Table 30-2 are those of `encode`, which `decode` inverts. -/
theorem tableWordsDecodeToTheirCommands : Obligations.TableWordsDecodeToTheirCommands :=
  ⟨decode_encode .nop, decode_encode .fdct, decode_encode .idct, decode_encode .rep3Enc,
    decode_encode .rep3Dec, decode_encode .crc32, decode_encode .hdrBuild, decode_encode .hdrParse⟩

namespace Machine

open Sys2Proof.Claim

/-! ### The engine's step on the latched word -/

/-- `complete` of the model is the one of the statements (60_exceptions.md R125). -/
theorem State.complete_eq_finished (s : State) (code : ErrCode) (info : Word) :
    s.complete code info = finished s code info := rfl

/-- At the engine's turn the step runs the command whose word is latched. -/
theorem step_of_latched {s : State} (he : EngineNext s) {i : Instr} (hi : s.eng.lcmd = encode i) :
    step s = exec i s := by
  rw [step_of_engineNext he, engineStep, hi, decode_encode]

/-- At the engine's turn a latched word that is no command's completes with ILLEGAL_CMD. -/
theorem step_of_illegal {s : State} (he : EngineNext s) (hill : ¬ ∃ i, decode s.eng.lcmd = .ok i) :
    step s = .next (finished s .illegalCmd s.eng.lcmd) := by
  rw [step_of_engineNext he]
  obtain ⟨i, hi, -⟩ | ⟨_, -, hstep⟩ := engineStep_cases s
  · exact absurd ⟨i, hi⟩ hill
  · rw [hstep, State.complete_eq_finished]

/-- Settles O4: the latched word selects no command, or it is the word of one of the eight. -/
theorem engineDecodesLatchedWord : Obligations.EngineDecodesLatchedWord := by
  intro s he
  refine ⟨fun hill => step_of_illegal he ?_, step_of_latched he (i := .nop),
    step_of_latched he (i := .fdct), step_of_latched he (i := .idct),
    step_of_latched he (i := .rep3Enc), step_of_latched he (i := .rep3Dec),
    step_of_latched he (i := .crc32), step_of_latched he (i := .hdrBuild),
    step_of_latched he (i := .hdrParse)⟩
  rw [decode_isOk_iff]
  rintro ⟨hmbz, hlisted⟩
  exact hill.elim (· hmbz) (· hlisted)

end Machine

end Sys2Proof
end

section
/-! PROOF. Binary64 encodings and their rounding (40_transform.md R83): the parts of an encoding, and that
one rounding gives the nearest value, ties to even. -/

namespace Sys2Proof.Machine

open Sys2Proof.Claim

/-! ### The parts of an encoding -/

theorem fpFraction_lt (x : F64) : fpFraction x < 2 ^ 52 := BitVec.isLt _

theorem fpExponent_eq (x : F64) : fpExponent x = x.toNat / 2 ^ 52 % 2 ^ 11 := by
  rw [fpExponent, BitVec.extractLsb'_toNat, Nat.shiftRight_eq_div_pow]

theorem fpFraction_eq (x : F64) : fpFraction x = x.toNat % 2 ^ 52 := by
  rw [fpFraction, BitVec.extractLsb'_toNat, Nat.shiftRight_zero]

theorem toNat_fpPack (b : Bool) {l : Nat} (hl : l < 2 ^ 63) :
    (fpPack b l).toNat = (if b then 2 ^ 63 else 0) + l := by
  rw [fpPack, BitVec.toNat_ofNat, Nat.mod_eq_of_lt]
  split <;> omega

theorem fpExponent_fpPack (b : Bool) {l : Nat} (hl : l < 2 ^ 63) :
    fpExponent (fpPack b l) = l / 2 ^ 52 := by
  rw [fpExponent_eq, toNat_fpPack b hl]
  split <;> omega

theorem fpFraction_fpPack (b : Bool) {l : Nat} (hl : l < 2 ^ 63) :
    fpFraction (fpPack b l) = l % 2 ^ 52 := by
  rw [fpFraction_eq, toNat_fpPack b hl]
  split <;> omega

theorem fpSign_fpPack (b : Bool) {l : Nat} (hl : l < 2 ^ 63) : fpSign (fpPack b l) = b := by
  rw [fpSign, BitVec.getLsbD, toNat_fpPack b hl, Nat.testBit_eq_decide_div_mod_eq]
  cases b <;> simp <;> omega

theorem fpPack_bit_zero (b : Bool) {l : Nat} (hl : l < 2 ^ 63) (heven : l % 2 = 0) :
    (fpPack b l).getLsbD 0 = false := by
  rw [BitVec.getLsbD, toNat_fpPack b hl, Nat.testBit_zero, decide_eq_false_iff_not]
  split <;> omega

theorem fpInfLower_lt : fpInfLower < 2 ^ 63 := by decide

theorem lt_of_lt_fpInfLower {l : Nat} (h : l < fpInfLower) : l < 2 ^ 63 := h.trans fpInfLower_lt

theorem fpIsFinite_fpPack (b : Bool) {l : Nat} (hl : l < fpInfLower) :
    fpIsFinite (fpPack b l) = true := by
  have hexp : l / 2 ^ 52 < 2047 := Nat.div_lt_of_lt_mul (by rwa [mul_comm])
  rw [fpIsFinite, fpExponent_fpPack b (lt_of_lt_fpInfLower hl), bne_iff_ne]
  exact hexp.ne

/-- The encodings past an infinity's are those of the NaNs. -/
theorem fpIsNaN_fpPack (b : Bool) {f : Nat} (h0 : f ≠ 0) (hf : f < 2 ^ 52) :
    fpIsNaN (fpPack b (fpInfLower + f)) = true := by
  have hlt : fpInfLower + f < 2 ^ 63 := by rw [fpInfLower]; omega
  rw [fpIsNaN, fpExponent_fpPack b hlt, fpFraction_fpPack b hlt, Bool.and_eq_true, beq_iff_eq,
    bne_iff_ne, fpInfLower]
  omega

/-! ### The classes of values -/

theorem fpIsNaN_of_finite {x : F64} (h : fpIsFinite x = true) : fpIsNaN x = false := by
  rw [fpIsFinite, bne_iff_ne] at h
  simp [fpIsNaN, h]

theorem fpIsInf_of_finite {x : F64} (h : fpIsFinite x = true) : fpIsInf x = false := by
  rw [fpIsFinite, bne_iff_ne] at h
  simp [fpIsInf, h]

theorem fpIsFinite_of_nan {x : F64} (h : fpIsNaN x = true) : fpIsFinite x = false := by
  rw [← Bool.not_eq_true]
  intro hfin
  exact Bool.false_ne_true ((fpIsNaN_of_finite hfin).symm.trans h)

theorem fpIsNaN_of_inf {x : F64} (h : fpIsInf x = true) : fpIsNaN x = false := by
  simp_all [fpIsInf, fpIsNaN]

theorem fpIsFinite_of_inf {x : F64} (h : fpIsInf x = true) : fpIsFinite x = false := by
  simp_all [fpIsInf, fpIsFinite]

theorem fpIsNaN_fpSomeNaN : fpIsNaN fpSomeNaN = true := by decide

/-! ### Signed magnitudes -/

/-- The integer with this sign and this magnitude. -/
def signedInt (b : Bool) (m : Nat) : Int := if b then -(m : Int) else m

theorem fpInt_eq_signedInt (x : F64) : fpInt x = signedInt (fpSign x) (fpMagnitude x) := rfl

@[simp] theorem signedInt_false (m : Nat) : signedInt false m = m := rfl

@[simp] theorem signedInt_true (m : Nat) : signedInt true m = -(m : Int) := rfl

@[simp] theorem signedInt_zero (b : Bool) : signedInt b 0 = 0 := by
  cases b <;> rfl

theorem natAbs_signedInt (b : Bool) (m : Nat) : (signedInt b m).natAbs = m := by
  cases b <;> simp

theorem signedInt_not (b : Bool) (m : Nat) : signedInt (!b) m = -signedInt b m := by
  cases b <;> simp

theorem signedInt_natAbs (z : Int) : signedInt (decide (z < 0)) z.natAbs = z := by
  by_cases h : z < 0
  · rw [decide_eq_true h, signedInt_true]
    omega
  · rw [decide_eq_false h, signedInt_false]
    omega

theorem signedInt_mul (b c : Bool) (m n : Nat) :
    signedInt b m * signedInt c n = signedInt (b != c) (m * n) := by
  cases b <;> cases c <;> simp

/-! ### Rounding to a multiple of a power of two -/

theorem roundShift_zero (sh : Nat) : roundShift 0 sh = 0 := by
  simp [roundShift]

/-- The error of `roundShift` is at most half a unit, and where it is half a unit the result is even. -/
theorem roundShift_error (n sh : Nat) :
    2 * ((roundShift n sh : Int) * 2 ^ sh - n).natAbs ≤ 2 ^ sh ∧
    (2 * ((roundShift n sh : Int) * 2 ^ sh - n).natAbs = 2 ^ sh → roundShift n sh % 2 = 0) := by
  have hlt : n % 2 ^ sh < 2 ^ sh := Nat.mod_lt _ (Nat.two_pow_pos sh)
  have hdown : ((n / 2 ^ sh : Nat) : Int) * 2 ^ sh - n = -(n % 2 ^ sh : Nat) := by
    have := Nat.div_add_mod' n (2 ^ sh)
    zify at this ⊢
    omega
  have hup : ((n / 2 ^ sh + 1 : Nat) : Int) * 2 ^ sh - n = (2 ^ sh : Nat) - (n % 2 ^ sh : Nat) := by
    rw [Nat.cast_succ, add_mul, one_mul, add_sub_right_comm, hdown]
    push_cast
    ring
  rw [roundShift]
  split_ifs with hlow hhigh
  · rw [hdown]
    omega
  · rw [hup]
    omega
  · rcases Nat.mod_two_eq_zero_or_one (n / 2 ^ sh) with heven | hodd
    · rw [heven, add_zero, hdown]
      omega
    · rw [hodd, hup]
      omega

/-- Distinct multiples of `2 ^ sh` are at least `2 ^ sh` apart. -/
theorem two_pow_le_natAbs_sub {k r : Int} (sh : Nat) (h : k ≠ r) :
    2 ^ sh ≤ (k * 2 ^ sh - r * 2 ^ sh).natAbs := by
  rw [← sub_mul, Int.natAbs_mul, Int.natAbs_pow]
  exact Nat.le_mul_of_pos_left _ (Int.natAbs_pos.2 (sub_ne_zero.2 h))

/-- No multiple of `2 ^ sh` is nearer to `n` than the rounded one, and where another is as near the rounded
one is even. -/
theorem roundShift_nearest (n sh : Nat) (k : Int) :
    ((roundShift n sh : Int) * 2 ^ sh - n).natAbs ≤ (k * 2 ^ sh - n).natAbs ∧
    ((k * 2 ^ sh - n).natAbs = ((roundShift n sh : Int) * 2 ^ sh - n).natAbs →
      k ≠ roundShift n sh → roundShift n sh % 2 = 0) := by
  obtain ⟨hle, heven⟩ := roundShift_error n sh
  by_cases hk : k = roundShift n sh
  · exact ⟨by rw [hk], fun _ hne => absurd hk hne⟩
  · have hapart := two_pow_le_natAbs_sub sh hk
    exact ⟨by omega, fun htie _ => heven (by omega)⟩

/-- The same against every integer `w` that is such a multiple, or lies below a multiple that `n` does not
lie below. -/
theorem roundShift_nearest_of_dvd_or_lt {n sh k : Nat} {w : Int}
    (hw : (2 ^ sh : Int) ∣ w ∨ w < (k * 2 ^ sh : Nat) ∧ k * 2 ^ sh ≤ n) :
    ((roundShift n sh : Int) * 2 ^ sh - n).natAbs ≤ (w - n).natAbs ∧
    ((w - n).natAbs = ((roundShift n sh : Int) * 2 ^ sh - n).natAbs →
      w ≠ roundShift n sh * 2 ^ sh → roundShift n sh % 2 = 0) := by
  obtain ⟨j, rfl⟩ | ⟨hlt, hle⟩ := hw
  · obtain ⟨hnear, htie⟩ := roundShift_nearest n sh j
    rw [mul_comm (2 ^ sh : Int) j]
    exact ⟨hnear, fun heq hne => htie heq fun hj => hne (by rw [hj])⟩
  · obtain ⟨hnear, -⟩ := roundShift_nearest n sh k
    push_cast at hlt
    zify at hle
    exact ⟨by omega, fun heq => by omega⟩

/-- Rounding does not pass a multiple of `2 ^ sh`. -/
theorem le_roundShift {n sh k : Nat} (h : k * 2 ^ sh ≤ n) : k ≤ roundShift n sh := by
  obtain ⟨hle, -⟩ := roundShift_error n sh
  by_contra hlt
  have hgap : (roundShift n sh + 1) * 2 ^ sh ≤ k * 2 ^ sh := Nat.mul_le_mul_right _ (by omega)
  have hpos := Nat.two_pow_pos sh
  have hcast : ((2 ^ sh : Nat) : Int) = 2 ^ sh := Nat.cast_pow 2 sh
  zify at h hgap
  rw [add_mul] at hgap
  omega

theorem roundShift_le {n sh k : Nat} (h : 2 * n < (2 * k + 1) * 2 ^ sh) : roundShift n sh ≤ k := by
  obtain ⟨hle, -⟩ := roundShift_error n sh
  by_contra hlt
  have hgap : (k + 1) * 2 ^ sh ≤ roundShift n sh * 2 ^ sh := Nat.mul_le_mul_right _ (by omega)
  have hcast : ((2 ^ sh : Nat) : Int) = 2 ^ sh := Nat.cast_pow 2 sh
  zify at h hgap
  rw [add_mul] at hgap h
  rw [mul_assoc] at h
  omega

/-! ### The exponent of a rounded value -/

/-- How many bits `fpRoundLower` drops besides the `sc` bits below 2^-1074. -/
def roundExponent (n sc : Nat) : Nat := Nat.log2 n - 52 - sc

/-- Without its last `sc + roundExponent n sc` bits, `n` has at most 53. -/
theorem lt_two_pow_roundExponent (n sc : Nat) : n < 2 ^ (53 + (sc + roundExponent n sc)) :=
  Nat.lt_log2_self.trans_le (Nat.pow_le_pow_right two_pos (by rw [roundExponent]; omega))

/-- It has no fewer, unless the exponent is 0. -/
theorem two_pow_roundExponent_le {n sc : Nat} (h : roundExponent n sc ≠ 0) :
    2 ^ 52 * 2 ^ (sc + roundExponent n sc) ≤ n := by
  have hn : n ≠ 0 := by
    rintro rfl
    simp [roundExponent] at h
  rw [← pow_add]
  refine (Nat.pow_le_pow_right two_pos ?_).trans (Nat.log2_self_le hn)
  rw [roundExponent] at h ⊢
  omega

theorem roundExponent_le {n sc e : Nat} (h : n < 2 ^ (53 + (sc + e))) : roundExponent n sc ≤ e := by
  by_contra hlt
  have hle := two_pow_roundExponent_le (n := n) (sc := sc) (by omega)
  rw [← pow_add] at hle
  have := (Nat.pow_lt_pow_iff_right (a := 2) (by decide)).1 (hle.trans_lt h)
  omega

/-- Rounding to 53 bits can carry to 2 ^ 53. -/
theorem roundShift_roundExponent_le (n sc : Nat) :
    roundShift n (sc + roundExponent n sc) ≤ 2 ^ 53 := by
  refine roundShift_le ?_
  have h := lt_two_pow_roundExponent n sc
  rw [pow_add] at h
  rw [add_mul, mul_assoc]
  omega

theorem le_roundShift_roundExponent {n sc : Nat} (h : roundExponent n sc ≠ 0) :
    2 ^ 52 ≤ roundShift n (sc + roundExponent n sc) :=
  le_roundShift (two_pow_roundExponent_le h)

/-- What `fpRoundLower` answers where it does not round to an infinity. -/
def roundedLower (n sc : Nat) : Nat :=
  roundExponent n sc * 2 ^ 52 + roundShift n (sc + roundExponent n sc)

/-- The exact values that round to a finite one, in units of 2 ^ -(1074 + sc): below 2^1024 - 2^970. -/
def overflowBound (sc : Nat) : Nat := (2 ^ 54 - 1) * 2 ^ (2044 + sc)

theorem roundedLower_lt {n sc : Nat} (h : n < overflowBound sc) : roundedLower n sc < fpInfLower := by
  have hpow : overflowBound sc ≤ 2 ^ (53 + (sc + 2045)) := by
    rw [overflowBound, show 53 + (sc + 2045) = 54 + (2044 + sc) by omega, pow_add 2 54]
    exact Nat.mul_le_mul_right _ (by omega)
  have he := roundExponent_le (h.trans_le hpow)
  have hq := roundShift_roundExponent_le n sc
  rw [roundedLower, fpInfLower]
  by_cases htop : roundExponent n sc = 2045
  · have hlast : roundShift n (sc + roundExponent n sc) ≤ 2 ^ 53 - 1 := by
      refine roundShift_le ?_
      rw [htop, show sc + 2045 = 1 + (2044 + sc) by omega, pow_add]
      rw [overflowBound] at h
      omega
    omega
  · omega

theorem fpRoundLower_eq {n sc : Nat} (h : n < overflowBound sc) :
    fpRoundLower n sc = roundedLower n sc := if_pos (roundedLower_lt h)

theorem fpRoundLower_zero (sc : Nat) : fpRoundLower 0 sc = 0 := by
  simp [fpRoundLower, roundShift_zero, fpInfLower]

/-! ### The magnitude of a value -/

theorem fpMagnitude_of_subnormal {x : F64} (h : fpExponent x = 0) : fpMagnitude x = fpFraction x :=
  if_pos h

theorem fpMagnitude_of_normal {x : F64} {e : Nat} (h : fpExponent x = e + 1) :
    fpMagnitude x = (2 ^ 52 + fpFraction x) * 2 ^ e := by
  rw [fpMagnitude, h, if_neg e.succ_ne_zero, Nat.add_sub_cancel]

/-- Every magnitude is a multiple of `2 ^ e` or lies below 2 ^ (52 + e). -/
theorem fpMagnitude_dvd_or_lt (x : F64) (e : Nat) :
    2 ^ e ∣ fpMagnitude x ∨ fpMagnitude x < 2 ^ 52 * 2 ^ e := by
  have hfrac := fpFraction_lt x
  cases hx : fpExponent x with
  | zero =>
    rw [fpMagnitude_of_subnormal hx]
    exact .inr (hfrac.trans_le (Nat.le_mul_of_pos_right _ (Nat.two_pow_pos e)))
  | succ k =>
    rw [fpMagnitude_of_normal hx]
    rcases le_or_gt e k with hle | hlt
    · exact .inl (Dvd.dvd.mul_left (pow_dvd_pow 2 hle) _)
    · right
      calc (2 ^ 52 + fpFraction x) * 2 ^ k < (2 ^ 52 * 2) * 2 ^ k :=
            Nat.mul_lt_mul_of_pos_right (by omega) (Nat.two_pow_pos k)
        _ = 2 ^ 52 * 2 ^ (k + 1) := by rw [mul_assoc, ← pow_succ']
        _ ≤ 2 ^ 52 * 2 ^ e := Nat.mul_le_mul_left _ (Nat.pow_le_pow_right two_pos hlt)

/-- A significand of 53 bits, or of fewer with the exponent 0, keeps its value in the encoding; the carry
to 2 ^ 53 runs on into the exponent field. -/
theorem fpMagnitude_fpPack (b : Bool) {e q : Nat} (hq : q ≤ 2 ^ 53) (he : e ≠ 0 → 2 ^ 52 ≤ q)
    (hfin : e * 2 ^ 52 + q < 2 ^ 63) : fpMagnitude (fpPack b (e * 2 ^ 52 + q)) = q * 2 ^ e := by
  have hexp := fpExponent_fpPack b hfin
  have hfrac := fpFraction_fpPack b hfin
  rcases lt_or_ge q (2 ^ 52) with hsub | hnormal
  · obtain rfl : e = 0 := by omega
    rw [fpMagnitude_of_subnormal (by omega), hfrac]
    omega
  · rcases hq.lt_or_eq with hlt | hcarry
    · rw [fpMagnitude_of_normal (e := e) (by omega), hfrac]
      congr 1
      omega
    · rw [fpMagnitude_of_normal (e := e + 1) (by omega), hfrac,
        show (e * 2 ^ 52 + q) % 2 ^ 52 = 0 by omega, hcarry, add_zero, pow_succ' 2 e,
        ← mul_assoc, ← pow_succ]

/-! ### The rounded value is the nearest -/

theorem fpInt_fpPack_roundedLower (b : Bool) {n sc : Nat} (h : n < overflowBound sc) :
    fpInt (fpPack b (roundedLower n sc)) =
      signedInt b (roundShift n (sc + roundExponent n sc) * 2 ^ roundExponent n sc) := by
  have hlt := lt_of_lt_fpInfLower (roundedLower_lt h)
  rw [fpInt_eq_signedInt, fpSign_fpPack b hlt]
  congr 1
  exact fpMagnitude_fpPack b (roundShift_roundExponent_le n sc) le_roundShift_roundExponent hlt

/-- What rounding competes with: in units of 2 ^ -(1074 + sc) a value is a multiple of the last place kept,
or lies below a multiple that the exact value reaches. -/
theorem signedInt_fpMagnitude_dvd_or_lt (c : Bool) (z : F64) (n sc : Nat) :
    (2 ^ (sc + roundExponent n sc) : Int) ∣ signedInt c (fpMagnitude z) * 2 ^ sc ∨
    signedInt c (fpMagnitude z) * 2 ^ sc < (2 ^ 52 * 2 ^ (sc + roundExponent n sc) : Nat) ∧
      2 ^ 52 * 2 ^ (sc + roundExponent n sc) ≤ n := by
  rw [add_comm sc, pow_add]
  rcases fpMagnitude_dvd_or_lt z (roundExponent n sc) with hdvd | hlt
  · left
    refine mul_dvd_mul_right (Int.natAbs_dvd_natAbs.1 ?_) _
    rwa [natAbs_signedInt, Int.natAbs_pow]
  · by_cases he : roundExponent n sc = 0
    · left
      rw [he, pow_zero, one_mul]
      exact dvd_mul_left ..
    · right
      have hle : signedInt c (fpMagnitude z) ≤ fpMagnitude z := by
        have := natAbs_signedInt c (fpMagnitude z)
        omega
      refine ⟨?_, by rw [add_comm]; exact two_pow_roundExponent_le he⟩
      have hmul := Nat.mul_lt_mul_of_pos_right hlt (Nat.two_pow_pos sc)
      rw [pow_add, ← mul_assoc]
      zify at hmul ⊢
      exact (mul_le_mul_of_nonneg_right hle (by positivity)).trans_lt hmul

/-- A value in units of 2 ^ -(1074 + sc). -/
theorem natCast_mul_two_pow (q e sc : Nat) :
    ((q * 2 ^ e : Nat) : Int) * 2 ^ sc = q * 2 ^ (sc + e) := by
  rw [Nat.cast_mul, Nat.cast_pow, mul_assoc, add_comm sc, pow_add, Nat.cast_ofNat]

/-- The distance of two signed integers depends only on whether their signs differ. -/
theorem natAbs_signedInt_sub (b c : Bool) (m n k : Nat) :
    (signedInt c m * 2 ^ k - signedInt b n).natAbs = (signedInt (c != b) m * 2 ^ k - n).natAbs := by
  cases b with
  | false => rw [Bool.bne_false, signedInt_false]
  | true =>
    rw [Bool.bne_true, signedInt_not, signedInt_true, ← Int.natAbs_neg]
    congr 1
    ring

theorem signedInt_eq_signedInt_iff (b c : Bool) (m n : Nat) :
    signedInt c m = signedInt b n ↔ signedInt (c != b) m = n := by
  cases b with
  | false => rw [Bool.bne_false, signedInt_false]
  | true => rw [Bool.bne_true, signedInt_not, signedInt_true, neg_eq_iff_eq_neg]

/-- `fpPack b (fpRoundLower n sc)` is as near to the exact value as any, and in a tie its last bit is 0. -/
theorem fpInt_round_nearest (b : Bool) {n sc : Nat} (h : n < overflowBound sc) (z : F64) :
    (fpInt (fpPack b (fpRoundLower n sc)) * 2 ^ sc - signedInt b n).natAbs ≤
      (fpInt z * 2 ^ sc - signedInt b n).natAbs ∧
    ((fpInt z * 2 ^ sc - signedInt b n).natAbs =
        (fpInt (fpPack b (fpRoundLower n sc)) * 2 ^ sc - signedInt b n).natAbs →
      fpInt z ≠ fpInt (fpPack b (fpRoundLower n sc)) →
      (fpPack b (fpRoundLower n sc)).getLsbD 0 = false) := by
  obtain ⟨hnear, htie⟩ := roundShift_nearest_of_dvd_or_lt
    (signedInt_fpMagnitude_dvd_or_lt (fpSign z != b) z n sc)
  rw [fpRoundLower_eq h, fpInt_fpPack_roundedLower b h, fpInt_eq_signedInt, natAbs_signedInt_sub,
    natAbs_signedInt_sub, bne_self_eq_false, signedInt_false, natCast_mul_two_pow]
  refine ⟨hnear, fun heq hne => fpPack_bit_zero b (lt_of_lt_fpInfLower (roundedLower_lt h)) ?_⟩
  have heven := htie heq fun hw => hne ?_
  · rw [roundedLower]
    omega
  · rw [← natCast_mul_two_pow] at hw
    exact (signedInt_eq_signedInt_iff ..).2 (mul_right_cancel₀ (pow_ne_zero sc two_ne_zero) hw)

/-- The distance from an exact value, both in units of 2 ^ -(1074 + sc). -/
theorem distance_eq (x : F64) (a : Int) (sc : Nat) :
    distance x ((a : ℚ) / 2 ^ (1074 + sc)) = (fpInt x * 2 ^ sc - a).natAbs / 2 ^ (1074 + sc) := by
  have hpos : (0 : ℚ) < 2 ^ (1074 + sc) := by positivity
  rw [distance, fpValue, Nat.cast_natAbs, Int.cast_abs, ← abs_of_pos hpos, ← abs_div, abs_of_pos hpos]
  congr 1
  push_cast
  rw [sub_div, pow_add, mul_div_mul_right _ _ (by positivity)]

theorem fpValue_inj {x y : F64} : fpValue x = fpValue y ↔ fpInt x = fpInt y := by
  rw [fpValue, fpValue, div_left_inj' (by positivity), Int.cast_inj]

/-- One rounding of an exact value below the overflow threshold. -/
theorem fpPack_fpRoundLower_roundsTo (b : Bool) {n sc : Nat} (h : n < overflowBound sc) :
    fpIsFinite (fpPack b (fpRoundLower n sc)) = true ∧
      RoundsTo (fpPack b (fpRoundLower n sc)) ((signedInt b n : ℚ) / 2 ^ (1074 + sc)) := by
  refine ⟨fpRoundLower_eq h ▸ fpIsFinite_fpPack b (roundedLower_lt h), fun z _ => ?_⟩
  obtain ⟨hnear, htie⟩ := fpInt_round_nearest b h z
  have hpos : (0 : ℚ) < 2 ^ (1074 + sc) := by positivity
  rw [distance_eq, distance_eq, div_le_div_iff_of_pos_right hpos, div_left_inj' hpos.ne', Nat.cast_le,
    Nat.cast_inj, ne_eq, fpValue_inj]
  exact ⟨hnear, htie⟩

/-- The threshold of the statements in units of 2 ^ -(1074 + sc). -/
theorem lt_overflowBound {b : Bool} {n sc : Nat}
    (h : |(signedInt b n : ℚ) / 2 ^ (1074 + sc)| < 2 ^ 1024 - 2 ^ 970) : n < overflowBound sc := by
  have hpos : (0 : ℚ) < 2 ^ (1074 + sc) := by positivity
  have hn : |(signedInt b n : ℚ)| = n := by
    rw [← Int.cast_abs, Int.abs_eq_natAbs, natAbs_signedInt, Int.cast_natCast]
  rw [abs_div, hn, abs_of_pos hpos, div_lt_iff₀ hpos, show 1024 = 54 + 970 from rfl, pow_add 2 54,
    ← sub_one_mul, mul_assoc, ← pow_add] at h
  rw [overflowBound, show 2044 + sc = 970 + (1074 + sc) by omega, ← Nat.cast_lt (α := ℚ), Nat.cast_mul,
    Nat.cast_sub Nat.one_le_two_pow, Nat.cast_pow, Nat.cast_pow]
  exact_mod_cast h

end Sys2Proof.Machine
end

section
/-! PROOF. Binary64 addition and multiplication (40_transform.md R83): finite values, infinities, NaNs and
zeros. -/

namespace Sys2Proof.Machine

open Sys2Proof.Claim

/-! ### Finite values -/

theorem fpAdd_of_finite {x y : F64} (hx : fpIsFinite x = true) (hy : fpIsFinite y = true) :
    ∃ b, fpAdd x y = fpPack b (fpRoundLower (fpInt x + fpInt y).natAbs 0) ∧
      signedInt b (fpInt x + fpInt y).natAbs = fpInt x + fpInt y := by
  simp only [fpAdd, fpIsNaN_of_finite, fpIsInf_of_finite, hx, hy, Bool.or_self, Bool.false_eq_true,
    if_false]
  split_ifs with hz
  · exact ⟨_, by rw [hz, Int.natAbs_zero, fpRoundLower_zero],
      by rw [hz, Int.natAbs_zero, signedInt_zero]⟩
  · exact ⟨_, rfl, signedInt_natAbs _⟩

theorem fpMul_of_finite {x y : F64} (hx : fpIsFinite x = true) (hy : fpIsFinite y = true) :
    fpMul x y = fpPack (fpSign x != fpSign y) (fpRoundLower (fpMagnitude x * fpMagnitude y) 1074) := by
  simp only [fpMul, fpIsNaN_of_finite, fpIsInf_of_finite, hx, hy, Bool.or_self, Bool.false_eq_true,
    if_false]

/-- Settles O28: the exact sum is an integer in units of 2^-1074, rounded once. -/
theorem additionRoundsToNearestEven : Obligations.AdditionRoundsToNearestEven := by
  intro x y hx hy hlt
  obtain ⟨b, hadd, hsum⟩ := fpAdd_of_finite hx hy
  have hexact : fpValue x + fpValue y =
      (signedInt b (fpInt x + fpInt y).natAbs : ℚ) / 2 ^ (1074 + 0) := by
    rw [hsum, fpValue, fpValue, ← add_div, Int.cast_add, add_zero]
  rw [hexact] at hlt ⊢
  rw [hadd]
  exact fpPack_fpRoundLower_roundsTo b (lt_overflowBound hlt)

/-- Settles O29: the exact product is an integer in units of 2^-2148, rounded once. -/
theorem multiplicationRoundsToNearestEven : Obligations.MultiplicationRoundsToNearestEven := by
  intro x y hx hy hlt
  have hexact : fpValue x * fpValue y =
      (signedInt (fpSign x != fpSign y) (fpMagnitude x * fpMagnitude y) : ℚ) / 2 ^ (1074 + 1074) := by
    rw [← signedInt_mul, fpValue, fpValue, div_mul_div_comm, Int.cast_mul, ← pow_add]
    rfl
  rw [hexact] at hlt ⊢
  rw [fpMul_of_finite hx hy]
  exact fpPack_fpRoundLower_roundsTo _ (lt_overflowBound hlt)

/-! ### Infinities, NaNs and zeros -/

theorem fpAdd_of_nan {x y : F64} (h : fpIsNaN x = true ∨ fpIsNaN y = true) : fpAdd x y = fpSomeNaN :=
  if_pos ((Bool.or_eq_true_iff ..).2 h)

theorem fpMul_of_nan {x y : F64} (h : fpIsNaN x = true ∨ fpIsNaN y = true) : fpMul x y = fpSomeNaN :=
  if_pos ((Bool.or_eq_true_iff ..).2 h)

theorem fpIsNaN_fpAdd {x y : F64} (h : fpIsNaN x = true ∨ fpIsNaN y = true) :
    fpIsNaN (fpAdd x y) = true := fpAdd_of_nan h ▸ fpIsNaN_fpSomeNaN

theorem fpIsNaN_fpMul {x y : F64} (h : fpIsNaN x = true ∨ fpIsNaN y = true) :
    fpIsNaN (fpMul x y) = true := fpMul_of_nan h ▸ fpIsNaN_fpSomeNaN

theorem fpMul_comm (x y : F64) : fpMul x y = fpMul y x := by
  simp only [fpMul, Bool.or_comm (fpIsNaN x), Bool.or_comm (fpIsInf x), Bool.xor_comm (fpSign x),
    Bool.or_comm (fpIsFinite x && _), mul_comm (fpMagnitude x)]

/-- An infinity times a finite nonzero value. -/
theorem fpMul_of_inf {x y : F64} (hx : fpIsInf x = true) (hy : fpIsFinite y = true)
    (hy0 : fpMagnitude y ≠ 0) : fpMul x y = fpPack (fpSign x != fpSign y) fpInfLower := by
  simp [fpMul, fpIsNaN_of_inf hx, fpIsNaN_of_finite hy, hx, fpIsFinite_of_inf hx, hy0]

theorem fpIsInf_fpPack_fpInfLower (b : Bool) : fpIsInf (fpPack b fpInfLower) = true := by
  cases b <;> decide

theorem fpMagnitude_ne_zero {x : F64} (h : fpValue x ≠ 0) : fpMagnitude x ≠ 0 := by
  intro h0
  simp [fpValue, fpInt, h0] at h

/-- A zero times a finite value is a zero with the product of the signs. -/
theorem fpMul_of_zero {x y : F64} (hx : fpIsFinite x = true) (hy : fpIsFinite y = true)
    (hy0 : fpMagnitude y = 0) : fpMul x y = fpPack (fpSign x != fpSign y) 0 := by
  rw [fpMul_of_finite hx hy, hy0, mul_zero, fpRoundLower_zero]

/-- +0.0 plus a zero of either sign. -/
theorem fpAdd_zero_fpPack_zero (b : Bool) : fpAdd 0 (fpPack b 0) = 0 := by
  cases b <;> decide

/-- Settles O30. -/
theorem specialValuesFollowIeee : Obligations.SpecialValuesFollowIeee := by
  refine ⟨by decide, by decide, fun x y hx hy hy0 => ?_, fun x y hx => ?_⟩
  · rw [fpMul_comm y x, fpMul_of_inf hx hy (fpMagnitude_ne_zero hy0)]
    exact ⟨fpIsInf_fpPack_fpInfLower _, fpSign_fpPack _ fpInfLower_lt, rfl⟩
  · exact ⟨fpIsNaN_fpAdd (.inl hx), fpIsNaN_fpAdd (.inr hx), fpIsNaN_fpMul (.inl hx),
      fpIsNaN_fpMul (.inr hx)⟩

end Sys2Proof.Machine
end

section
/-! PROOF. The cosine table and the dataflow of the transforms (40_transform.md R84 to R90), element by
element. -/

namespace Sys2Proof.Machine

open Sys2Proof.Claim

/-! ### The cosine table -/

/-- The folded table of 40_transform.md R85, as the statement writes it: the sign and the constant of each
T[i][u]. -/
def foldTable : List (List (Bool × Nat)) :=
  [[(false, 0), (false, 1), (false, 2), (false, 3), (false, 4), (false, 5), (false, 6), (false, 7)],
   [(false, 0), (false, 3), (false, 6), (true, 7), (true, 4), (true, 1), (true, 2), (true, 5)],
   [(false, 0), (false, 5), (true, 6), (true, 1), (true, 4), (false, 7), (false, 2), (false, 3)],
   [(false, 0), (false, 7), (true, 2), (true, 5), (false, 4), (false, 3), (true, 6), (true, 1)],
   [(false, 0), (true, 7), (true, 2), (false, 5), (false, 4), (true, 3), (true, 6), (false, 1)],
   [(false, 0), (true, 5), (true, 6), (false, 1), (true, 4), (true, 7), (false, 2), (true, 3)],
   [(false, 0), (true, 3), (false, 6), (false, 7), (true, 4), (false, 1), (true, 2), (false, 5)],
   [(false, 0), (true, 1), (false, 2), (true, 3), (false, 4), (true, 5), (false, 6), (true, 7)]]

/-- The folded table has the sign and the constant of the folded angle. -/
theorem foldTable_entry (i u : Fin 8) : (foldTable.getD i.val []).getD u.val (false, 0) =
    if cosFold i u > 8 then (true, 16 - cosFold i u) else (false, cosFold i u) := by
  revert i u
  decide

/-- c_k is the entry `k` of 1.0 and then the seven constants, and +0.0 past them. -/
theorem cosConstant_eq (tbl : Vector F64 7) (k : Nat) :
    cosConstant tbl k = (0x3FF0000000000000#64 :: tbl.toList).getD k 0 := by
  cases k with
  | zero => rfl
  | succ k => simp [cosConstant, List.getD_eq_getElem?_getD]

theorem cosEntry_entries (tbl : Vector F64 64) (i u : Fin 8) :
    cosEntry (.entries tbl) i u = tbl[8 * i.val + u.val]'(by omega) := by
  simp only [cosEntry]
  rw [Vector.getElem?_eq_getElem (by omega), Option.getD_some]

/-- T[i][u] from the entry of the folded table. -/
theorem cosEntry_constants (tbl : Vector F64 7) (i u : Fin 8) :
    cosEntry (.constants tbl) i u =
      let entry := (foldTable.getD i.val []).getD u.val (false, 0)
      let c := (0x3FF0000000000000#64 :: tbl.toList).getD entry.2 0
      if entry.1 then c ^^^ 0x8000000000000000#64 else c := by
  rw [foldTable_entry]
  simp only [cosEntry, cosConstant_eq, fpNeg]
  split <;> rfl

/-- Settles O24. -/
theorem cosineTableIsFolded : Obligations.CosineTableIsFolded :=
  ⟨cosEntry_constants, rfl, rfl, cosEntry_entries⟩

/-! ### One dimension (40_transform.md R87, R88) -/

/-- The ascending sum is the eight additions written out. -/
theorem sumAscending_eq_sum8 (g : Fin 8 → F64) : sumAscending g = sum8 g := rfl

theorem fdct1_eq (t : CosTable) (f : Fin 8 → F64) (u : Fin 8) :
    fdct1 t f u = fpMul (normConstant u) (sum8 fun i => fpMul (f i) (cosEntry t i u)) := rfl

theorem idct1_eq (t : CosTable) (f : Fin 8 → F64) (i : Fin 8) :
    idct1 t f i = sum8 fun u => fpMul (fpMul (normConstant u) (f u)) (cosEntry t i u) := rfl

/-! ### Two dimensions (40_transform.md R89, R90) -/

/-- FWD64: FDCT1 along each row, then along each column. -/
theorem blockAt_fwd64 (t : CosTable) (x : Block) (u v : Fin 8) : blockAt (fwd64 t x) u v =
    fdct1 t (fun row => fdct1 t (fun col => blockAt x row col) v) u := by
  rw [fwd64]
  simp only [blockAt_blockOf]

/-- INV64: IDCT1 along each row of coefficients, then along each column. -/
theorem blockAt_inv64 (t : CosTable) (x : Block) (row col : Fin 8) : blockAt (inv64 t x) row col =
    idct1 t (fun u => idct1 t (fun v => blockAt x u v) col) row := by
  rw [inv64]
  simp only [blockAt_blockOf]

/-- Settles O22. -/
theorem forwardDataflowIsRowsThenColumns : Obligations.ForwardDataflowIsRowsThenColumns := by
  refine ⟨by decide, fun t x u v => ?_⟩
  have h := blockAt_fwd64 t x u v
  simp only [fdct1_eq] at h
  exact h

/-- Settles O23. -/
theorem inverseDataflowIsRowsThenColumns : Obligations.InverseDataflowIsRowsThenColumns := by
  intro t x row col
  have h := blockAt_inv64 t x row col
  simp only [idct1_eq] at h
  exact h

/-- Each of the 64 places of a block has its row and its column. -/
theorem exists_row_column (k : Fin 64) : ∃ r c, ∀ x : Block, x[k] = blockAt x r c :=
  ⟨⟨k.val / 8, by omega⟩, ⟨k.val % 8, by omega⟩, fun x => by
    simp only [blockAt, Nat.div_add_mod]
    rfl⟩

/-! ### NaN propagation (40_transform.md R96) -/

/-- A NaN among the terms, or before them, makes the running sum a NaN. -/
theorem fpIsNaN_foldl_fpAdd (g : Fin 8 → F64) (l : List (Fin 8)) (s : F64)
    (h : fpIsNaN s = true ∨ ∃ i ∈ l, fpIsNaN (g i) = true) :
    fpIsNaN (l.foldl (fun s i => fpAdd s (g i)) s) = true := by
  induction l generalizing s with
  | nil => simpa using h
  | cons j l ih =>
    refine ih _ ?_
    rcases h with hs | ⟨i, hi, hnan⟩
    · exact .inl (fpIsNaN_fpAdd (.inl hs))
    · rcases List.mem_cons.1 hi with rfl | hi
      · exact .inl (fpIsNaN_fpAdd (.inr hnan))
      · exact .inr ⟨i, hi, hnan⟩

theorem fpIsNaN_sumAscending {g : Fin 8 → F64} (h : ∃ i, fpIsNaN (g i) = true) :
    fpIsNaN (sumAscending g) = true := by
  obtain ⟨i, hi⟩ := h
  exact fpIsNaN_foldl_fpAdd g _ _ (.inr ⟨i, List.mem_finRange i, hi⟩)

theorem fpIsNaN_fdct1 (t : CosTable) {f : Fin 8 → F64} (h : ∃ i, fpIsNaN (f i) = true) (u : Fin 8) :
    fpIsNaN (fdct1 t f u) = true := by
  obtain ⟨i, hi⟩ := h
  exact fpIsNaN_fpMul (.inr (fpIsNaN_sumAscending ⟨i, fpIsNaN_fpMul (.inl hi)⟩))

theorem fpIsNaN_idct1 (t : CosTable) {f : Fin 8 → F64} (h : ∃ u, fpIsNaN (f u) = true) (i : Fin 8) :
    fpIsNaN (idct1 t f i) = true := by
  obtain ⟨u, hu⟩ := h
  exact fpIsNaN_sumAscending ⟨u, fpIsNaN_fpMul (.inl (fpIsNaN_fpMul (.inr hu)))⟩

/-- A dataflow of which every output is a NaN where some input is. -/
def PropagatesNaN (ref : CosTable → Block → Block) : Prop :=
  ∀ t x, (∃ k : Fin 64, fpIsNaN x[k] = true) → ∀ k : Fin 64, fpIsNaN (ref t x)[k] = true

/-- The NaN reaches its whole row in the first pass, and from there every column in the second. -/
theorem fwd64_propagatesNaN : PropagatesNaN fwd64 := by
  rintro t x ⟨k, hk⟩ j
  obtain ⟨row, col, hin⟩ := exists_row_column k
  obtain ⟨u, v, hout⟩ := exists_row_column j
  rw [hin] at hk
  rw [hout, blockAt_fwd64]
  have hpass : ∃ row, fpIsNaN (fdct1 t (fun col => blockAt x row col) v) = true :=
    ⟨row, fpIsNaN_fdct1 t ⟨col, hk⟩ v⟩
  exact fpIsNaN_fdct1 t hpass u

theorem inv64_propagatesNaN : PropagatesNaN inv64 := by
  rintro t x ⟨k, hk⟩ j
  obtain ⟨u, v, hin⟩ := exists_row_column k
  obtain ⟨row, col, hout⟩ := exists_row_column j
  rw [hin] at hk
  rw [hout, blockAt_inv64]
  have hpass : ∃ u, fpIsNaN (idct1 t (fun v => blockAt x u v) col) = true :=
    ⟨u, fpIsNaN_idct1 t ⟨v, hk⟩ col⟩
  exact fpIsNaN_idct1 t hpass row

/-! ### Zero blocks (40_transform.md R96, R97, corner cases) -/

/-- +0.0 or -0.0. -/
def IsZero (x : F64) : Prop := ∃ b, x = fpPack b 0

theorem isZero_zero : IsZero 0 := ⟨false, rfl⟩

/-- A finite value times a zero is a zero. -/
theorem IsZero.fpMul_right {x y : F64} (hx : fpIsFinite x = true) (hy : IsZero y) :
    IsZero (fpMul x y) := by
  obtain ⟨b, rfl⟩ := hy
  exact ⟨_, fpMul_of_zero hx (fpIsFinite_fpPack b (by decide)) (by cases b <;> decide)⟩

theorem IsZero.fpMul_left {x y : F64} (hx : IsZero x) (hy : fpIsFinite y = true) :
    IsZero (fpMul x y) := fpMul_comm x y ▸ hx.fpMul_right hy

/-- The sum starts at +0.0, and adding zeros of either sign keeps it. -/
theorem sumAscending_of_isZero {g : Fin 8 → F64} (h : ∀ i, IsZero (g i)) : sumAscending g = 0 := by
  have hstep : ∀ i, fpAdd 0 (g i) = 0 := fun i => by
    obtain ⟨b, hb⟩ := h i
    rw [hb, fpAdd_zero_fpPack_zero]
  exact List.foldl_fixed' hstep _

theorem fpIsFinite_normConstant (u : Fin 8) : fpIsFinite (normConstant u) = true := by
  revert u
  decide

/-- Every C(u) is positive. -/
theorem fpSign_normConstant (u : Fin 8) : fpSign (normConstant u) = false := by
  revert u
  decide

theorem fpMul_normConstant_zero (u : Fin 8) : fpMul (normConstant u) 0 = 0 := by
  rw [fpMul_of_zero (fpIsFinite_normConstant u) (by decide) (by decide), fpSign_normConstant]
  rfl

theorem isZero_blockAt {x : Block} (hx : ∀ k : Fin 64, IsZero x[k]) (r c : Fin 8) :
    IsZero (blockAt x r c) := hx ⟨8 * r.val + c.val, by omega⟩

theorem block_eq_replicate {x : Block} {a : F64} (h : ∀ r c, blockAt x r c = a) :
    x = Vector.replicate 64 a := by
  ext k hk : 1
  obtain ⟨r, c, hat⟩ := exists_row_column ⟨k, hk⟩
  rw [Vector.getElem_replicate, ← h r c, ← hat]
  rfl

section ZeroBlocks

variable {t : CosTable} (ht : ∀ i u, fpIsFinite (cosEntry t i u) = true)

include ht

theorem fdct1_of_isZero {f : Fin 8 → F64} (hf : ∀ i, IsZero (f i)) (u : Fin 8) : fdct1 t f u = 0 := by
  rw [fdct1, sumAscending_of_isZero fun i => (hf i).fpMul_left (ht i u), fpMul_normConstant_zero]

theorem idct1_of_isZero {f : Fin 8 → F64} (hf : ∀ u, IsZero (f u)) (i : Fin 8) : idct1 t f i = 0 :=
  sumAscending_of_isZero fun u => ((hf u).fpMul_right (fpIsFinite_normConstant u)).fpMul_left (ht i u)

theorem fwd64_of_isZero {x : Block} (hx : ∀ k : Fin 64, IsZero x[k]) :
    fwd64 t x = Vector.replicate 64 0 := by
  refine block_eq_replicate fun u v => ?_
  rw [blockAt_fwd64, fdct1_of_isZero ht fun row => ?_]
  rw [fdct1_of_isZero ht fun col => isZero_blockAt hx row col]
  exact isZero_zero

theorem inv64_of_isZero {x : Block} (hx : ∀ k : Fin 64, IsZero x[k]) :
    inv64 t x = Vector.replicate 64 0 := by
  refine block_eq_replicate fun row col => ?_
  rw [blockAt_inv64, idct1_of_isZero ht fun u => ?_]
  rw [idct1_of_isZero ht fun v => isZero_blockAt hx u v]
  exact isZero_zero

end ZeroBlocks

theorem fpIsFinite_cosEntry_default (i u : Fin 8) :
    fpIsFinite (cosEntry Config.defaultCosTable i u) = true := by
  revert i u
  decide

/-- Settles O26: every product is a zero, every sum of zeros is +0.0, and C(u) is positive. -/
theorem zeroBlocksGivePlusZero : Obligations.ZeroBlocksGivePlusZero := by
  have hfin := fpIsFinite_cosEntry_default
  have hzero (b : Bool) (k : Fin 64) : IsZero (Vector.replicate 64 (fpPack b 0))[k] := ⟨b, by simp⟩
  refine ⟨?_, ?_, ?_⟩
  · exact (congrArg _ (fwd64_of_isZero hfin (hzero false))).trans Vector.toList_replicate
  · exact (congrArg _ (fwd64_of_isZero hfin (hzero true))).trans Vector.toList_replicate
  · exact (congrArg _ (inv64_of_isZero hfin (hzero false))).trans Vector.toList_replicate

end Sys2Proof.Machine
end

section
/-! PROOF. FDCT and IDCT as commands (40_transform.md R92 to R97): what they read, write and leave. -/

namespace Sys2Proof.Machine

open Sys2Proof.Claim

/-! ### The block a command reads and writes -/

/-- A block all of whose elements have a value is read as those values. -/
theorem readBlock_of_blkIs {s : State} {x : Block} (h : BlkIs s x) : s.readBlock = some x := by
  have helem (k : Fin 64) : s.blk[k] = BlkElem.ofBits x[k] := h k
  refine (s.readBlock_eq_some x).2 ⟨fun k => ?_, ?_⟩
  · rw [helem, BlkElem.hasValue_ofBits]
  · ext k hk : 1
    have hbits := blockOfBlk_get s.blk ⟨k, hk⟩
    rw [helem, BlkElem.bits_ofBits] at hbits
    exact hbits.symm

theorem anyNonfinite_iff (x : Block) :
    anyNonfinite x = true ↔ ∃ k : Fin 64, fpIsFinite x[k] = false := by
  simp only [anyNonfinite, List.any_eq_true, Vector.mem_toList_iff, Bool.not_eq_true']
  constructor
  · rintro ⟨e, he, hfin⟩
    obtain ⟨k, hk, rfl⟩ := Vector.getElem_of_mem he
    exact ⟨⟨k, hk⟩, hfin⟩
  · rintro ⟨k, hk⟩
    exact ⟨_, Vector.getElem_mem k.isLt, hk⟩

theorem anyNonfinite_of_finite {x : Block} (h : ∀ k : Fin 64, fpIsFinite x[k] = true) :
    anyNonfinite x = false := by
  rw [← Bool.not_eq_true, anyNonfinite_iff]
  rintro ⟨k, hk⟩
  exact Bool.false_ne_true (hk.symm.trans (h k))

/-! ### The result -/

/-- What stands for the free fraction is never 0, so it is the fraction of a NaN. -/
theorem fpIsNaN_freeNaN (n : Nat) : fpIsNaN (freeNaN n) = true := by
  have hlt := (Config.freeNaNFraction n).isLt
  rw [freeNaN]
  split_ifs with hzero
  · exact fpIsNaN_fpPack _ one_ne_zero (by decide)
  · exact fpIsNaN_fpPack _ hzero hlt

section Result

variable {c : Config} {ref : CosTable → Block → Block} {impl : Block → Block}

theorem transformResult_ref64 (hc : c.transformImpl = .ref64) (draw : Nat) (x : Block) (k : Fin 64) :
    (transformResult c draw ref impl x)[k] =
      if fpIsNaN (ref c.cosTable x)[k] then freeNaN (draw + k.val) else (ref c.cosTable x)[k] := by
  simp [transformResult, hc, settleNaNs]

theorem transformResult_opaqueImpl (hc : c.transformImpl = .opaqueImpl) (draw : Nat) {x : Block}
    (hx : ∀ k : Fin 64, fpIsFinite x[k] = true) : transformResult c draw ref impl x = impl x := by
  simp [transformResult, hc, anyNonfinite_of_finite hx]

/-- Under REF64 an output is the dataflow's value where that is a number. -/
theorem transformResult_of_number (hc : c.transformImpl = .ref64) (draw : Nat) {x : Block} {k : Fin 64}
    (hk : fpIsNaN (ref c.cosTable x)[k] = false) :
    (transformResult c draw ref impl x)[k] = (ref c.cosTable x)[k] := by
  rw [transformResult_ref64 hc, hk, if_neg Bool.false_ne_true]

/-- Under REF64 an output is some NaN where the dataflow's value is a NaN. -/
theorem fpIsNaN_transformResult (hc : c.transformImpl = .ref64) (draw : Nat) {x : Block} {k : Fin 64}
    (hk : fpIsNaN (ref c.cosTable x)[k] = true) :
    fpIsNaN (transformResult c draw ref impl x)[k] = true := by
  rw [transformResult_ref64 hc, hk, if_pos rfl]
  exact fpIsNaN_freeNaN _

/-- Two draws of free values give the same numbers, and NaNs in the same places. -/
theorem transformResult_draws (draw draw' : Nat) {x : Block}
    (hx : c.transformImpl = .ref64 ∨ ∀ k : Fin 64, fpIsFinite x[k] = true) (k : Fin 64) :
    (transformResult c draw ref impl x)[k] = (transformResult c draw' ref impl x)[k] ∨
      fpIsNaN (transformResult c draw ref impl x)[k] = true ∧
        fpIsNaN (transformResult c draw' ref impl x)[k] = true := by
  cases hc : c.transformImpl with
  | ref64 =>
    cases hk : fpIsNaN (ref c.cosTable x)[k] with
    | false => exact .inl (by rw [transformResult_of_number hc _ hk, transformResult_of_number hc _ hk])
    | true => exact .inr ⟨fpIsNaN_transformResult hc _ hk, fpIsNaN_transformResult hc _ hk⟩
  | opaqueImpl =>
    have hfin := hx.resolve_left (by rw [hc]; nofun)
    exact .inl (by rw [transformResult_opaqueImpl hc _ hfin, transformResult_opaqueImpl hc _ hfin])

end Result

/-- Blocks that differ only in the bits of NaNs are finite in the same places. -/
theorem anyNonfinite_congr {y y' : Block}
    (h : ∀ k : Fin 64, y[k] = y'[k] ∨ fpIsNaN y[k] = true ∧ fpIsNaN y'[k] = true) :
    anyNonfinite y = anyNonfinite y' := by
  have hfin (k : Fin 64) : fpIsFinite y[k] = fpIsFinite y'[k] := by
    rcases h k with heq | ⟨hnan, hnan'⟩
    · rw [heq]
    · rw [fpIsFinite_of_nan hnan, fpIsFinite_of_nan hnan']
  rw [Bool.eq_iff_iff, anyNonfinite_iff, anyNonfinite_iff]
  simp only [hfin]

/-! ### The command -/

/-- The state after a transform command that left the values `y`, FP_NONFINITE as R94 sets it. -/
def transformedTo (s : State) (x y : Block) : State :=
  transformed s (blkOfBlock y) (anyNonfinite x || anyNonfinite y)

theorem blkIs_transformedTo (s : State) (x y : Block) : BlkIs (transformedTo s x y) y :=
  blkOfBlock_get y

theorem transformedTo_fpNonfinite (s : State) (x y : Block) :
    (transformedTo s x y).regs.status.fpNonfinite = (anyNonfinite x || anyNonfinite y) := rfl

section Command

variable {i : Instr} {ref : CosTable → Block → Block} {impl : Block → Block}

/-- A transform command on a block with values completes. -/
theorem runTransform_of_blkIs {s : State} {x : Block} (h : BlkIs s x) : runTransform i ref impl s =
    .next (transformedTo s x (transformResult s.cfg s.env.draws ref impl x)) := by
  rw [runTransform, readBlock_of_blkIs h]
  rfl

theorem transformLaw_of_runTransform (hi : ∀ s, exec i s = runTransform i ref impl s) :
    TransformLaw i ref impl := by
  intro s x h
  refine ⟨_, _, (hi s).trans (runTransform_of_blkIs h), blkIs_transformedTo _ _ _, fun hc k => ?_,
    fun hc hx => transformResult_opaqueImpl hc _ hx, ?_, rfl⟩
  · exact ⟨transformResult_of_number hc _, fpIsNaN_transformResult hc _⟩
  · rw [transformedTo_fpNonfinite, Bool.or_eq_true, anyNonfinite_iff, anyNonfinite_iff, exists_or]

/-- One NaN element: the result is NaNs alone, and FP_NONFINITE is set. -/
theorem runTransform_of_nan (href : PropagatesNaN ref) {s : State} {x : Block}
    (hc : s.cfg.transformImpl = .ref64) (h : BlkIs s x) (hnan : ∃ k : Fin 64, fpIsNaN x[k] = true) :
    ∃ t y, runTransform i ref impl s = .next t ∧ BlkIs t y ∧ (∀ k : Fin 64, fpIsNaN y[k] = true) ∧
      t.regs.status.fpNonfinite = true ∧ t.regs.status.errCode = .none := by
  refine ⟨_, _, runTransform_of_blkIs h, blkIs_transformedTo _ _ _, fun k => ?_, ?_, rfl⟩
  · exact fpIsNaN_transformResult hc _ (href _ _ hnan k)
  · obtain ⟨k, hk⟩ := hnan
    rw [transformedTo_fpNonfinite, (anyNonfinite_iff x).2 ⟨k, fpIsFinite_of_nan hk⟩, Bool.true_or]

/-- The rest of the state has no influence: it only gives the draw index of the free values. -/
theorem runTransform_depends_on_blk_and_cfg {s s' t t' : State} {x : Block} (hcfg : s.cfg = s'.cfg)
    (h : BlkIs s x) (h' : BlkIs s' x)
    (hx : s.cfg.transformImpl = .ref64 ∨ ∀ k : Fin 64, fpIsFinite x[k] = true)
    (ht : runTransform i ref impl s = .next t) (ht' : runTransform i ref impl s' = .next t') :
    ∃ y y', BlkIs t y ∧ BlkIs t' y' ∧
      (∀ k : Fin 64, y[k] = y'[k] ∨ (fpIsNaN y[k] = true ∧ fpIsNaN y'[k] = true)) ∧
      t.regs.status.fpNonfinite = t'.regs.status.fpNonfinite := by
  obtain rfl := Host.Outcome.next.inj ((runTransform_of_blkIs h).symm.trans ht)
  obtain rfl := Host.Outcome.next.inj ((runTransform_of_blkIs h').symm.trans ht')
  have hsame := transformResult_draws (ref := ref) (impl := impl) s.env.draws s'.env.draws hx
  refine ⟨_, _, blkIs_transformedTo _ _ _, blkIs_transformedTo _ _ _, hcfg ▸ hsame, ?_⟩
  rw [transformedTo_fpNonfinite, transformedTo_fpNonfinite, ← hcfg, anyNonfinite_congr hsame]

end Command

/-- Settles O20. -/
theorem fdctReplacesBlkByItsTransform : Obligations.FdctReplacesBlkByItsTransform :=
  transformLaw_of_runTransform fun _ => rfl

/-- Settles O21. -/
theorem idctReplacesBlkByItsInverse : Obligations.IdctReplacesBlkByItsInverse :=
  transformLaw_of_runTransform fun _ => rfl

/-- Settles O25: each dataflow carries a NaN to every output. -/
theorem nanInputMakesEveryOutputNaN : Obligations.NaNInputMakesEveryOutputNaN := by
  rintro i s x (rfl | rfl) hc h hnan
  · exact runTransform_of_nan fwd64_propagatesNaN hc h hnan
  · exact runTransform_of_nan inv64_propagatesNaN hc h hnan

/-- Settles O27: both commands are `runTransform` with a dataflow of their own. -/
theorem transformDependsOnlyOnBlkAndConfig : Obligations.TransformDependsOnlyOnBlkAndConfig := by
  rintro i s s' t t' x (rfl | rfl) hcfg h h' hx ht ht'
  · exact runTransform_depends_on_blk_and_cfg hcfg h h' hx ht ht'
  · exact runTransform_depends_on_blk_and_cfg hcfg h h' hx ht ht'

end Sys2Proof.Machine
end

section
/-! PROOF. REP3_ENC and REP3_DEC as commands (41_repetition.md R98 to R105): their errors in order, the
bits they write, and that decoding an encoded stream gives its bits back. -/

namespace Sys2Proof.Machine

open Sys2Proof.Claim

/-! ### Bit streams in DMEM (20_memory.md R59, R60) -/

/-- A range whose bytes all have a value holds some list of bytes. -/
theorem exists_holds_of_hasBytes {m : Memory} {a n : Nat} (h : HasBytes m a n) :
    ∃ bs, bs.length = n ∧ Holds m a bs := by
  cases hread : m.readBytes a n with
  | none => exact absurd h ((m.readBytes_eq_none_iff a n).1 hread)
  | some bs =>
    obtain ⟨hlen, hbytes⟩ := (m.readBytes_eq_some a n bs).1 hread
    exact ⟨bs, hlen, fun k hk => hbytes k (hlen ▸ hk)⟩

theorem holds_congr {m m' : Memory} {a : Nat} {bs : List Byte} (h : Holds m a bs)
    (heq : ∀ x, a ≤ x → x < a + bs.length → m'.read x = m.read x) : Holds m' a bs := fun k hk =>
  (heq (a + k) (by omega) (by omega)).trans (h k hk)

/-- `BitRead` of a range that holds `bs` is the bit of the stream in `bs`. -/
theorem bitIs_of_holds {m : Memory} {a k : Nat} {bs : List Byte} (h : Holds m a bs)
    (hk : k < 8 * bs.length) : BitIs m a k (streamBit bs k) := by
  have hbyte : k / 8 < bs.length := by omega
  refine ⟨bs[k / 8], ?_, ?_⟩
  · rw [h _ hbyte, List.getElem?_eq_getElem hbyte]
  · rw [streamBit, List.getD_eq_getElem _ _ hbyte]

theorem bitIs_unique {m : Memory} {a k : Nat} {b c : Bool} (hb : BitIs m a k b) (hc : BitIs m a k c) :
    b = c := by
  obtain ⟨v, hv, rfl⟩ := hb
  obtain ⟨w, hw, rfl⟩ := hc
  rw [Option.some.inj (hv.symm.trans hw)]

/-- `n` bits have room in the bytes that hold them. -/
theorem le_bytesFor (n : Nat) : n ≤ 8 * bytesFor n := (nbytes_le_iff n (bytesFor n)).1 le_rfl

/-- DMEM after `BitsWrite` of `bit(0) .. bit(n-1)` at `a`. -/
def streamWritten (m : Memory) (a n : Nat) (bit : Nat → Bool) : Memory := m.writeBytes a (packBits n bit)

section StreamWritten

variable (m : Memory) (a n : Nat) (bit : Nat → Bool)

theorem holds_streamWritten : Holds (streamWritten m a n bit) a (packBits n bit) :=
  m.holds_writeBytes a (packBits n bit)

theorem sameOutside_streamWritten : SameOutside m (streamWritten m a n bit) a (bytesFor n) := by
  have hlen : (packBits n bit).length = bytesFor n := packBits_length n bit
  exact hlen ▸ m.sameOutside_writeBytes a (packBits n bit)

theorem bitIs_streamWritten {k : Nat} (hk : k < 8 * bytesFor n) :
    BitIs (streamWritten m a n bit) a k (decide (k < n) && bit k) :=
  streamBit_packBits n bit k hk ▸
    bitIs_of_holds (holds_streamWritten m a n bit) (by rwa [packBits_length])

theorem bitIs_streamWritten_data {k : Nat} (hk : k < n) : BitIs (streamWritten m a n bit) a k (bit k) := by
  simpa [hk] using bitIs_streamWritten m a n bit (hk.trans_le (le_bytesFor n))

theorem bitIs_streamWritten_padding {k : Nat} (hn : n ≤ k) (hk : k < 8 * bytesFor n) :
    BitIs (streamWritten m a n bit) a k false := by
  simpa [hn.not_gt] using bitIs_streamWritten m a n bit hk

end StreamWritten

/-! ### The checks (41_repetition.md R102, R104) -/

section Checks

variable {i : Instr} {check : Except CmdError Rep3Plan} {bit : List Byte → Nat → Bool} {s : State}
  {p : Rep3Plan}

theorem runRep3_of_error {e : CmdError} (h : check = .error e) :
    runRep3 i check bit s = .next (finished s e.code e.info) := by
  subst h
  exact raiseErr_eq e s

variable (hcheck : check = rep3Check s.cfg p)

include hcheck

theorem runRep3_of_source_outside (h : ¬ InRange s p.src p.nbIn) :
    runRep3 i check bit s = .next (finished s .range 0) := by
  have hsrc : inRange s.cfg p.src p.nbIn = false := by rwa [← Bool.not_eq_true, inRange_iff]
  exact runRep3_of_error (e := ⟨.range, 0⟩) (by simp [hcheck, rep3Check, hsrc])

theorem runRep3_of_destination_outside (hsrc : InRange s p.src p.nbIn) (h : ¬ InRange s p.dst p.nbOut) :
    runRep3 i check bit s = .next (finished s .range 2) := by
  have hsrc : inRange s.cfg p.src p.nbIn = true := (inRange_iff ..).2 hsrc
  have hdst : inRange s.cfg p.dst p.nbOut = false := by rwa [← Bool.not_eq_true, inRange_iff]
  exact runRep3_of_error (e := ⟨.range, 2⟩) (by simp [hcheck, rep3Check, hsrc, hdst])

theorem runRep3_of_overlap (hsrc : InRange s p.src p.nbIn) (hdst : InRange s p.dst p.nbOut)
    (h : Overlaps p.src p.nbIn p.dst p.nbOut) :
    runRep3 i check bit s = .next (finished s .overlap 0) := by
  have hsrc : inRange s.cfg p.src p.nbIn = true := (inRange_iff ..).2 hsrc
  have hdst : inRange s.cfg p.dst p.nbOut = true := (inRange_iff ..).2 hdst
  have hover : overlap p.src p.nbIn p.dst p.nbOut = true := (overlap_iff ..).2 h
  exact runRep3_of_error (e := ⟨.overlap, 0⟩) (by simp [hcheck, rep3Check, hsrc, hdst, hover])

end Checks

theorem rep3EncCheck_eq (s : State) :
    rep3EncCheck s = rep3Check s.cfg ⟨op0 s, bytesFor (op1 s), op2 s, 3 * op1 s⟩ := rfl

/-- REP3_DEC of at least three bits goes on to the checks it shares with REP3_ENC. -/
theorem rep3DecCheck_of_le {s : State} (h : 3 ≤ op1 s) :
    rep3DecCheck s = rep3Check s.cfg ⟨op0 s, bytesFor (op1 s), op2 s, op1 s / 3⟩ := if_neg (Nat.not_lt.2 h)

theorem rep3DecCheck_of_lt {s : State} (h : op1 s < 3) :
    rep3DecCheck s = .error ⟨.insufficientBits, s.eng.larg1⟩ := if_pos h

/-! ### The result -/

/-- A REP3 command whose checks pass, its source holding `bs`. -/
theorem runRep3_of_holds (i : Instr) {check : Except CmdError Rep3Plan} (bit : List Byte → Nat → Bool)
    {s : State} {p : Rep3Plan} {bs : List Byte} (hok : check = .ok p) (hlen : bs.length = p.nbIn)
    (h : Holds s.dmem p.src bs) : runRep3 i check bit s =
      .next (repDone s (streamWritten s.dmem p.dst p.nOut (bit bs)) p.nOut) := by
  simp only [runRep3, hok, Memory.readBytes_of_holds hlen h]
  rfl

/-- The state after REP3_ENC of the source bytes `bs`. -/
def rep3Encoded (s : State) (bs : List Byte) : State :=
  repDone s (streamWritten s.dmem (op2 s) (3 * op1 s) (rep3EncodeBit bs)) (3 * op1 s)

/-- The state after REP3_DEC of the source bytes `bs`. -/
def rep3Decoded (s : State) (bs : List Byte) : State :=
  repDone s (streamWritten s.dmem (op2 s) (op1 s / 3) (rep3DecodeBit bs)) (op1 s / 3)

section Result

variable {s : State} {bs : List Byte}

theorem exec_rep3Enc_of_holds (hok : EncChecksPass s) (hlen : bs.length = bytesFor (op1 s))
    (h : Holds s.dmem (op0 s) bs) : exec .rep3Enc s = .next (rep3Encoded s bs) :=
  runRep3_of_holds .rep3Enc _ (rep3EncCheck_of_checksPass hok) hlen h

theorem exec_rep3Dec_of_holds (hok : DecChecksPass s) (hlen : bs.length = bytesFor (op1 s))
    (h : Holds s.dmem (op0 s) bs) : exec .rep3Dec s = .next (rep3Decoded s bs) :=
  runRep3_of_holds .rep3Dec _ (rep3DecCheck_of_checksPass hok) hlen h

/-- A REP3_ENC that gives a next state has found a value in every source byte, and encoded these. -/
theorem exists_holds_of_exec_rep3Enc {t : State} (hok : EncChecksPass s) (ht : exec .rep3Enc s = .next t) :
    ∃ bs, bs.length = bytesFor (op1 s) ∧ Holds s.dmem (op0 s) bs ∧ t = rep3Encoded s bs := by
  have hbytes : HasBytes s.dmem (op0 s) (bytesFor (op1 s)) := by
    by_contra hb
    cases (runRep3_of_noValue .rep3Enc _ (rep3EncCheck_of_checksPass hok) hb).symm.trans ht
  obtain ⟨bs, hlen, hbs⟩ := exists_holds_of_hasBytes hbytes
  exact ⟨bs, hlen, hbs, Host.Outcome.next.inj (ht.symm.trans (exec_rep3Enc_of_holds hok hlen hbs))⟩

/-- The source bits are those of the stream in `bs`. -/
theorem bitIs_source (hlen : bs.length = bytesFor (op1 s)) (h : Holds s.dmem (op0 s) bs) {k : Nat}
    (hk : k < op1 s) : BitIs s.dmem (op0 s) k (streamBit bs k) :=
  bitIs_of_holds h (hlen ▸ hk.trans_le (le_bytesFor _))

end Result

/-- Settles O32: the checks in their order, then the stream of tripled bits. -/
theorem rep3EncTriplesEveryBit : Obligations.Rep3EncTriplesEveryBit := by
  refine ⟨rfl, fun s => ⟨runRep3_of_source_outside (rep3EncCheck_eq s),
    runRep3_of_destination_outside (rep3EncCheck_eq s), runRep3_of_overlap (rep3EncCheck_eq s),
    fun hok hbytes => ?_⟩⟩
  obtain ⟨bs, hlen, hbs⟩ := exists_holds_of_hasBytes hbytes
  refine ⟨_, exec_rep3Enc_of_holds hok hlen hbs, fun k hk => ⟨_, bitIs_source hlen hbs (by omega), ?_⟩,
    fun k => bitIs_streamWritten_padding _ _ _ _, sameOutside_streamWritten _ _ _ _, rfl⟩
  exact bitIs_streamWritten_data _ _ _ _ hk

/-- Settles O33: INSUFFICIENT_BITS before the shared checks, then the stream of majorities. -/
theorem rep3DecTakesTheMajority : Obligations.Rep3DecTakesTheMajority := by
  refine ⟨rfl, fun s => ⟨fun h => runRep3_of_error (rep3DecCheck_of_lt h),
    fun h => runRep3_of_source_outside (rep3DecCheck_of_le h),
    fun h => runRep3_of_destination_outside (rep3DecCheck_of_le h),
    fun h => runRep3_of_overlap (rep3DecCheck_of_le h), fun hok hbytes => ?_⟩⟩
  obtain ⟨bs, hlen, hbs⟩ := exists_holds_of_hasBytes hbytes
  refine ⟨_, exec_rep3Dec_of_holds hok hlen hbs,
    fun j hj => ⟨_, _, _, bitIs_source hlen hbs (by omega), bitIs_source hlen hbs (by omega),
      bitIs_source hlen hbs (by omega), ?_⟩,
    fun k => bitIs_streamWritten_padding _ _ _ _, sameOutside_streamWritten _ _ _ _, rfl⟩
  exact bitIs_streamWritten_data _ _ _ _ hj

/-! ### What the code corrects, and the round trip (41_repetition.md R100, R105) -/

/-- The majority of three copies of `b` is flipped exactly when most of the copies are. -/
theorem majority_xor (b e0 e1 e2 : Bool) :
    majority (b ^^ e0) (b ^^ e1) (b ^^ e2) = (b ^^ majority e0 e1 e2) := by
  revert b e0 e1 e2
  decide

theorem majority_self (b : Bool) : majority b b b = b := by
  cases b <;> rfl

/-- Settles O34: the source bits of O33 are the flipped copies. -/
theorem oneFlippedCopyIsCorrectedTwoAreNot : Obligations.OneFlippedCopyIsCorrectedTwoAreNot := by
  intro s j b e0 e1 e2 hok hbytes hj h0 h1 h2
  obtain ⟨bs, hlen, hbs⟩ := exists_holds_of_hasBytes hbytes
  have hbit : rep3DecodeBit bs j = (b ^^ majority e0 e1 e2) := by
    rw [rep3DecodeBit, bitIs_unique (bitIs_source hlen hbs (by omega)) h0,
      bitIs_unique (bitIs_source hlen hbs (by omega)) h1,
      bitIs_unique (bitIs_source hlen hbs (by omega)) h2, majority_xor]
  have hout : BitIs (rep3Decoded s bs).dmem (op2 s) j (b ^^ majority e0 e1 e2) :=
    hbit ▸ bitIs_streamWritten_data _ _ _ _ hj
  refine ⟨_, exec_rep3Dec_of_holds hok hlen hbs, rfl, fun hone => ?_, fun htwo => ?_⟩
  · rwa [majority, decide_eq_false (by omega), Bool.xor_false] at hout
  · rwa [majority, decide_eq_true htwo, Bool.xor_true] at hout

/-- Decoding undoes encoding, bit by bit: each triple holds three copies of its source bit. -/
theorem rep3DecodeBit_packBits_rep3EncodeBit {n k : Nat} (hk : k < n) (bs : List Byte) :
    rep3DecodeBit (packBits (3 * n) (rep3EncodeBit bs)) k = streamBit bs k := by
  have hcopy (c : Nat) (hc : c < 3) :
      streamBit (packBits (3 * n) (rep3EncodeBit bs)) (3 * k + c) = streamBit bs k := by
    have hdata : 3 * k + c < 3 * n := by omega
    rw [streamBit_packBits _ _ _ (hdata.trans_le (le_bytesFor _)), decide_eq_true hdata, Bool.true_and,
      rep3EncodeBit, show (3 * k + c) / 3 = k by omega]
  calc rep3DecodeBit (packBits (3 * n) (rep3EncodeBit bs)) k
      = majority (streamBit bs k) (streamBit bs k) (streamBit bs k) :=
        congr (congrArg₂ majority (hcopy 0 (by decide)) (hcopy 1 (by decide))) (hcopy 2 (by decide))
    _ = streamBit bs k := majority_self _

/-- Settles O35: REP3_DEC reads the encoded stream where REP3_ENC wrote it. -/
theorem repetitionRoundTripReturnsTheBits : Obligations.RepetitionRoundTripReturnsTheBits := by
  intro s t u _ henc ht _ harg hop hdec hsame
  obtain ⟨bs, hlen, hbs, rfl⟩ := exists_holds_of_exec_rep3Enc henc ht
  have hsrc : op0 u = op2 s := congrArg BitVec.toNat harg
  have hout : op1 u / 3 = op1 s := by omega
  have hpacked := packBits_length (3 * op1 s) (rep3EncodeBit bs)
  have hstream : Holds u.dmem (op0 u) (packBits (3 * op1 s) (rep3EncodeBit bs)) := by
    rw [hsrc]
    exact holds_congr (holds_streamWritten _ _ _ _) (by rwa [hpacked])
  have hw := exec_rep3Dec_of_holds hdec (by rw [hpacked, hop]; rfl) hstream
  rw [rep3Decoded, hout] at hw
  refine ⟨_, hw, fun k hk => ⟨_, bitIs_source hlen hbs hk, ?_⟩,
    fun k => bitIs_streamWritten_padding _ _ _ _, ?_⟩
  · rw [← rep3DecodeBit_packBits_rep3EncodeBit hk bs]
    exact bitIs_streamWritten_data _ _ _ _ hk
  · exact (BitVec.toNat_ofNat ..).trans (Nat.mod_eq_of_lt s.eng.larg1.isLt)

end Sys2Proof.Machine
end

section
/-! PROOF. CRC-32 (42_frame.md R108): its check values, and that one changed byte changes the checksum. -/

namespace Sys2Proof.Machine

open Function (Injective)

/-! ### The register after one byte -/

/-- The polynomial's top bit is set, so bit 31 tells which branch the shift took. -/
theorem crcShift_getLsbD_31 (c : Word) : (crcShift c).getLsbD 31 = c.getLsbD 0 := by
  unfold crcShift
  cases c.getLsbD 0 <;> simp

/-- Bits 31:1 of the register are what the shift moves down. -/
theorem eq_of_ushiftRight_one_eq {c d : Word} (hbit : c.getLsbD 0 = d.getLsbD 0) (h : c >>> 1 = d >>> 1) :
    c = d := by
  refine BitVec.eq_of_getLsbD_eq fun i hi => ?_
  cases i with
  | zero => exact hbit
  | succ i => simpa [Nat.add_comm] using congrArg (BitVec.getLsbD · i) h

theorem crcShift_injective : Injective crcShift := by
  intro c d h
  have hbit : c.getLsbD 0 = d.getLsbD 0 := by rw [← crcShift_getLsbD_31, h, crcShift_getLsbD_31]
  refine eq_of_ushiftRight_one_eq hbit ?_
  cases hd : d.getLsbD 0 with
  | false => simpa only [crcShift, hbit, hd, Bool.false_eq_true, if_false] using h
  | true => simpa only [crcShift, hbit, hd, if_true, BitVec.xor_left_inj] using h

/-- Repeating an injective function keeps it injective: a byte is 8 shifts (42_frame.md R108). -/
theorem injective_repeat {α : Type} {f : α → α} (hf : Injective f) (n : Nat) :
    Injective (Nat.repeat f n) := by
  induction n with
  | zero => exact fun _ _ h => h
  | succ n ih => exact hf.comp ih

/-- A byte leads to the same register exactly where it meets the same difference. -/
theorem crcByte_eq_iff (c d : Word) (b b' : Byte) :
    crcByte c b = crcByte d b' ↔ c ^^^ b.setWidth 32 = d ^^^ b'.setWidth 32 :=
  (injective_repeat crcShift_injective 8).eq_iff

theorem crcByte_injective_register (b : Byte) : Injective (crcByte · b) := fun c d h =>
  (BitVec.xor_left_inj _).1 ((crcByte_eq_iff c d b b).1 h)

theorem crcByte_injective_byte (c : Word) : Injective (crcByte c) := fun b b' h => by
  have hwide := (BitVec.xor_right_inj _).1 ((crcByte_eq_iff c c b b').1 h)
  simpa using congrArg (BitVec.setWidth 8) hwide

/-! ### The register after a sequence -/

/-- The same bytes take different registers to different registers. -/
theorem foldl_crcByte_injective (bs : List Byte) : Injective (bs.foldl crcByte) := by
  induction bs with
  | nil => exact fun _ _ h => h
  | cons b bs ih => exact ih.comp (crcByte_injective_register b)

/-- A sequence with one byte replaced by another ends in another register. -/
theorem foldl_crcByte_set_ne {bs : List Byte} {k : Nat} (hk : k < bs.length) {b : Byte} (hb : b ≠ bs[k])
    (c : Word) : (bs.set k b).foldl crcByte c ≠ bs.foldl crcByte c := by
  induction bs generalizing k c with
  | nil => cases hk
  | cons b' bs ih =>
    cases k with
    | zero => exact (foldl_crcByte_injective bs).ne ((crcByte_injective_byte c).ne hb)
    | succ k => exact ih (Nat.lt_of_succ_lt_succ hk) hb (crcByte c b')

/-- The checksum tells a sequence from any other that differs in one byte (42_frame.md R118). -/
theorem crc32_set_ne {bs : List Byte} {k : Nat} (hk : k < bs.length) {b : Byte} (hb : b ≠ bs[k]) :
    crc32 (bs.set k b) ≠ crc32 bs := fun h =>
  foldl_crcByte_set_ne hk hb _ ((BitVec.xor_left_inj _).1 h)

/-- Settles O36: the kernel runs the register over each sequence. -/
theorem crcCheckValues : Obligations.CrcCheckValues :=
  ⟨rfl, by decide +kernel, by decide +kernel⟩

end Sys2Proof.Machine
end

section
/-! PROOF. CRC32, HDR_BUILD and HDR_PARSE as commands (42_frame.md R106 to R118): their errors in order, the
header they write and read, the round trip, and what a tampered frame gives. -/

namespace Sys2Proof.Machine

open Sys2Proof.Claim

/-! ### Operands, ranges and bytes in DMEM -/

theorem State.operand0_eq (s : State) : s.operand0 = op0 s := rfl

theorem State.operand1_eq (s : State) : s.operand1 = op1 s := rfl

theorem inRange_eq_false {s : State} {a n : Nat} (h : ¬ InRange s a n) : inRange s.cfg a n = false := by
  rwa [← Bool.not_eq_true, inRange_iff]

/-- A range holds two sequences one after the other exactly where each part holds its own. -/
theorem holds_append {m : Memory} {a : Nat} {bs cs : List Byte} :
    Holds m a (bs ++ cs) ↔ Holds m a bs ∧ Holds m (a + bs.length) cs := by
  constructor
  · intro h
    refine ⟨fun k hk => ?_, fun k hk => ?_⟩
    · rw [h k (by rw [List.length_append]; omega), List.getElem?_append_left hk]
    · rw [Nat.add_assoc, h (bs.length + k) (by rw [List.length_append]; omega),
        List.getElem?_append_right (by omega), Nat.add_sub_cancel_left]
  · rintro ⟨hbs, hcs⟩ k hk
    rw [List.length_append] at hk
    obtain hlt | hle := Nat.lt_or_ge k bs.length
    · rw [hbs k hlt, List.getElem?_append_left hlt]
    · rw [List.getElem?_append_right hle, ← hcs (k - bs.length) (by omega),
        show a + bs.length + (k - bs.length) = a + k by omega]

/-- The header's bytes are 16, so the payload stands 16 bytes after them (42_frame.md R106). -/
theorem holds_frame_iff {m : Memory} {a : Nat} {c : Config} {L crc : Word} {payload : List Byte} :
    Holds m a (headerBytes c L crc ++ payload) ↔
      Holds m a (headerBytes c L crc) ∧ Holds m (a + 16) payload := holds_append

/-- A memory that differs from one holding `bs` in the byte at `k` only. -/
theorem holds_set {m m' : Memory} {a k : Nat} {bs : List Byte} {b : Byte} (h : Holds m a bs)
    (hb : m'.read (a + k) = some b)
    (heq : ∀ x, a ≤ x → x < a + bs.length → x ≠ a + k → m'.read x = m.read x) :
    Holds m' a (bs.set k b) := by
  intro j hj
  rw [List.length_set] at hj
  by_cases hjk : j = k
  · rw [hjk, hb, List.getElem?_set_self (hjk ▸ hj)]
  · rw [heq (a + j) (by omega) (by omega) (by omega), h j hj, List.getElem?_set_ne (Ne.symm hjk)]

/-! ### Big-endian integers (00_scope.md R11) -/

theorem append_inj {v w : Nat} {x x' : BitVec v} {y y' : BitVec w} :
    x ++ y = x' ++ y' ↔ x = x' ∧ y = y' := by
  refine ⟨fun h => ⟨?_, ?_⟩, fun ⟨hx, hy⟩ => by rw [hx, hy]⟩
  · simpa only [BitVec.extractLsb'_append_eq_left] using congrArg (BitVec.extractLsb' w v) h
  · simpa only [BitVec.extractLsb'_append_eq_right] using congrArg (BitVec.extractLsb' 0 w) h

theorem be32_inj {a b c d a' b' c' d' : Byte} :
    be32 a b c d = be32 a' b' c' d' ↔ a = a' ∧ b = b' ∧ c = c' ∧ d = d' :=
  calc be32 a b c d = be32 a' b' c' d'
    _ ↔ a ++ b ++ c = a' ++ b' ++ c' ∧ d = d' := append_inj
    _ ↔ a = a' ∧ b = b' ∧ c = c' ∧ d = d' := by rw [append_inj, append_inj, and_assoc, and_assoc]

theorem be16_eq_zero_iff (a b : Byte) : be16 a b = 0 ↔ a = 0 ∧ b = 0 :=
  append_inj (x' := 0) (y' := 0)

/-- `be32` puts the four bytes of a word together again. -/
theorem be32_extractLsb' (w : Word) : be32 (w.extractLsb' 24 8) (w.extractLsb' 16 8) (w.extractLsb' 8 8)
    (w.extractLsb' 0 8) = w := by
  rw [be32, BitVec.extractLsb'_append_extractLsb'_eq_extractLsb' (start₁ := 16) (len₁ := 8) rfl,
    BitVec.extractLsb'_append_extractLsb'_eq_extractLsb' (start₁ := 8) (len₁ := 8) rfl,
    BitVec.extractLsb'_append_extractLsb'_eq_extractLsb' (start₁ := 0) (len₁ := 8) rfl]
  exact BitVec.extractLsb'_eq_self

theorem bytesOfWord_be32 (a b c d : Byte) : bytesOfWord (be32 a b c d) = [a, b, c, d] := by
  obtain ⟨h3, h2, h1, h0⟩ := be32_inj.1 (be32_extractLsb' (be32 a b c d))
  rw [bytesOfWord, h3, h2, h1, h0]

/-! ### The header (42_frame.md R106) -/

/-- The bytes of the statements are those HDR_BUILD writes. -/
theorem toBytes_builtHeader (c : Config) (L crc : Word) :
    (builtHeader c 1 L crc).toBytes = headerBytes c L crc := by
  simp only [Header.toBytes, builtHeader, magicWord, bytesOfWord_be32]
  rfl

/-- HDR_PARSE finds in them the fields HDR_BUILD put there. -/
theorem ofBytes_headerBytes (c : Config) (L crc : Word) :
    Header.ofBytes (headerBytes c L crc) = builtHeader c 1 L crc := by
  simp [Header.ofBytes, headerBytes, builtHeader, be32_extractLsb', be16, magicWord]

theorem magicMatches_iff (s : State) (h : List Byte) :
    MagicMatches s h ↔ (Header.ofBytes h).magic = magicWord s.cfg := be32_inj.symm

/-- What the model records of the header bytes is what the statements say (42_frame.md R111, R114). -/
theorem recordHeader_ofBytes (s : State) (h : List Byte) :
    s.recordHeader (Header.ofBytes h) = headerRead s h := by
  have hbyte (a b : Byte) : (a != b) = decide (a ≠ b) := by
    rw [Bool.eq_iff_iff, bne_iff_ne, decide_eq_true_iff]
  have hrsvd (a b : Byte) : (be16 a b != 0) = decide (a ≠ 0 ∨ b ≠ 0) := by
    rw [Bool.eq_iff_iff, bne_iff_ne, decide_eq_true_iff, Ne, be16_eq_zero_iff, not_and_or]
  simp only [State.recordHeader, Header.ofBytes, hrsvd, hbyte]
  rfl

/-! ### CRC32 (42_frame.md R109) -/

theorem exec_crc32_of_outside {s : State} (h : ¬ InRange s (op0 s) (op1 s)) :
    exec .crc32 s = .next (finished s .range 0) := by
  have hrange : inRange s.cfg s.operand0 s.operand1 = false := inRange_eq_false h
  rw [exec, execCrc32, hrange]
  rfl

theorem exec_crc32_of_holds {s : State} {bs : List Byte} (hin : InRange s (op0 s) (op1 s))
    (hlen : bs.length = op1 s) (h : Holds s.dmem (op0 s) bs) : exec .crc32 s =
      .next (finished { s with regs := { s.regs with crcRes := crc32 bs } } .none 0) := by
  have hrange : inRange s.cfg s.operand0 s.operand1 = true := (inRange_iff ..).2 hin
  have hread : s.dmem.readBytes s.operand0 s.operand1 = some bs := Memory.readBytes_of_holds hlen h
  rw [exec, execCrc32, hrange, hread]
  rfl

/-- Settles O37: the range check, then the checksum of the bytes read. -/
theorem crc32WritesTheChecksum : Obligations.Crc32WritesTheChecksum :=
  ⟨rfl, fun _ => ⟨exec_crc32_of_outside, fun _ => exec_crc32_of_holds⟩⟩

/-! ### HDR_BUILD (42_frame.md R110) -/

section HdrBuild

variable {s : State}

theorem exec_hdrBuild_of_error {e : CmdError} (h : hdrBuildCheck s = .error e) :
    exec .hdrBuild s = .next (finished s e.code e.info) := by
  rw [exec, execHdrBuild, h]
  rfl

theorem hdrBuildCheck_of_mbz (h : s.eng.larg2.extractLsb' 8 24 ≠ 0) :
    hdrBuildCheck s = .error ⟨.badArg, 2⟩ := by
  have hmbz : s.operandMbzZero = false := beq_eq_false_iff_ne.2 h
  simp [hdrBuildCheck, hmbz]

theorem hdrBuildCheck_of_scheme (hmbz : s.eng.larg2.extractLsb' 8 24 = 0)
    (h : s.eng.larg2.extractLsb' 0 8 ≠ 1) : hdrBuildCheck s =
      .error ⟨.unsupportedScheme, (s.eng.larg2.extractLsb' 0 8).setWidth 32⟩ := by
  have hmbz : s.operandMbzZero = true := beq_iff_eq.2 hmbz
  have hscheme : (s.operandScheme != 1) = true := bne_iff_ne.2 h
  simp only [hdrBuildCheck, hmbz, hscheme]
  rfl

theorem hdrBuildCheck_of_outside (harg : s.eng.larg2 = 1) (h : ¬ InRange s (op0 s) (16 + op1 s)) :
    hdrBuildCheck s = .error ⟨.range, 0⟩ := by
  have hrange : inRange s.cfg s.operand0 (16 + s.operand1) = false := inRange_eq_false h
  simp [hdrBuildCheck, State.operandMbzZero, State.operandScheme, harg, hrange]

/-- The writes of HDR_BUILD and its completion are those of the statements. -/
theorem complete_eq_buildDone (bs : List Byte) (crc : Word) :
    (((s.writeMem (op0 s) bs).setCrcRes crc).setOut 0 (BitVec.ofNat 32 (16 + op1 s))).complete .none 0 =
      buildDone s (s.dmem.writeBytes (op0 s) bs) crc := rfl

theorem buildDone_dmem (m : Memory) (crc : Word) : (buildDone s m crc).dmem = m := rfl

variable {payload : List Byte} (hok : BuildChecksPass s) (hlen : payload.length = op1 s)
  (hp : Holds s.dmem (op0 s + 16) payload)

include hok hlen hp

theorem exec_hdrBuild_of_holds : exec .hdrBuild s = .next (buildDone s
    (s.dmem.writeBytes (op0 s) (headerBytes s.cfg s.eng.larg1 (crc32 payload))) (crc32 payload)) := by
  have hread : s.dmem.readBytes (s.operand0 + 16) s.operand1 = some payload :=
    Memory.readBytes_of_holds hlen hp
  have hcheck : hdrBuildCheck s = .ok () := hdrBuildCheck_of_checksPass hok
  obtain ⟨-, hscheme, -⟩ := (hdrBuildCheck_eq_ok s).1 hcheck
  rw [exec, execHdrBuild, hcheck, hread]
  simp only [hscheme, toBytes_builtHeader, State.operand0_eq, State.operand1_eq, succeed_eq,
    complete_eq_buildDone]

/-- After HDR_BUILD the header and the payload stand one after the other from ARG0 on. -/
theorem holds_frame_of_exec_hdrBuild {t : State} (ht : exec .hdrBuild s = .next t) :
    Holds t.dmem (op0 s) (headerBytes s.cfg s.eng.larg1 (crc32 payload) ++ payload) := by
  obtain rfl := Host.Outcome.next.inj (ht.symm.trans (exec_hdrBuild_of_holds hok hlen hp))
  rw [buildDone_dmem]
  refine holds_frame_iff.2 ⟨Memory.holds_writeBytes _ _ _, holds_congr hp fun x hx _ => ?_⟩
  exact Memory.sameOutside_writeBytes _ _ _ x (.inr hx)

end HdrBuild

/-- Settles O38: the checks in their order, then the 16 header bytes. -/
theorem hdrBuildWritesTheHeader : Obligations.HdrBuildWritesTheHeader := by
  refine ⟨rfl, fun s => ⟨fun h => exec_hdrBuild_of_error (hdrBuildCheck_of_mbz h),
    fun hmbz h => exec_hdrBuild_of_error (hdrBuildCheck_of_scheme hmbz h),
    fun harg h => exec_hdrBuild_of_error (hdrBuildCheck_of_outside harg h),
    fun payload hok hlen hp => ⟨_, exec_hdrBuild_of_holds hok hlen hp, ?_⟩⟩⟩
  rw [buildDone_dmem]
  exact ⟨Memory.holds_writeBytes _ _ _, Memory.sameOutside_writeBytes _ _ (headerBytes ..), rfl⟩

/-! ### HDR_PARSE (42_frame.md R111) -/

theorem exec_hdrParse_of_outside {s : State} (h : ¬ InRange s (op0 s) (op1 s)) :
    exec .hdrParse s = .next (finished s .range 0) := by
  have hrange : inRange s.cfg s.operand0 s.operand1 = false := inRange_eq_false h
  rw [exec, execHdrParse, hrange]
  rfl

theorem exec_hdrParse_of_short {s : State} (hin : InRange s (op0 s) (op1 s)) (h : op1 s < 16) :
    exec .hdrParse s = .next (finished s .frameTooShort s.eng.larg1) := by
  have hrange : inRange s.cfg s.operand0 s.operand1 = true := (inRange_iff ..).2 hin
  have hshort : s.operand1 < 16 := h
  rw [exec, execHdrParse, hrange, if_neg (by decide), if_pos hshort]
  rfl

theorem exec_hdrParse_of_header {s : State} {h : List Byte} (hin : InRange s (op0 s) (op1 s))
    (h16 : 16 ≤ op1 s) (hlen : h.length = 16) (hh : Holds s.dmem (op0 s) h) :
    exec .hdrParse s = parseFrom (Header.ofBytes h) (headerRead s h) :=
  recordHeader_ofBytes s h ▸ execHdrParse_of_header hin h16 hlen hh

section ParseFrom

variable {h : Header} {s : State}

theorem parseFrom_of_wrong_magic (hmagic : h.magic ≠ magicWord s.cfg) :
    parseFrom h s = .next (finished s .invalidMagic h.magic) := by
  rw [parseFrom, if_pos (bne_iff_ne.2 hmagic)]
  rfl

variable (hmagic : h.magic = magicWord s.cfg)

include hmagic

theorem parseFrom_of_long (hlong : op1 s < 16 + h.len.toNat) :
    parseFrom h s = .next (finished s .invalidLength h.len) := by
  rw [parseFrom, if_neg (by simp [hmagic]), if_pos (show 16 + h.len.toNat > s.operand1 from hlong)]
  rfl

variable {payload : List Byte} (hfits : 16 + h.len.toNat ≤ op1 s) (hlen : payload.length = h.len.toNat)
  (hp : Holds s.dmem (op0 s + 16) payload)

include hfits hlen hp

/-- HDR_PARSE past its MAGIC and length checks compares the checksum of the payload. -/
theorem parseFrom_of_payload : parseFrom h s =
    if crc32 payload = h.crc then
      succeed (((s.setCrcRes (crc32 payload)).setPayloadAddr (BitVec.ofNat 32 (op0 s + 16))).setOut 0 h.len)
    else raiseErr ⟨.crcMismatch, crc32 payload⟩ (s.setCrcRes (crc32 payload)) := by
  have hread : s.dmem.readBytes (s.operand0 + 16) h.len.toNat = some payload :=
    Memory.readBytes_of_holds hlen hp
  rw [parseFrom, if_neg (by simp [hmagic]),
    if_neg (show ¬ 16 + h.len.toNat > s.operand1 from Nat.not_lt.2 hfits), hread]
  by_cases hcrc : crc32 payload = h.crc
  · simp only [hcrc, bne_self_eq_false]
    rfl
  · simp only [bne_iff_ne.2 hcrc, if_neg hcrc]
    rfl

end ParseFrom

/-- Settles O39: the checks in their order; past the header each one starts from what was recorded. -/
theorem hdrParseValidatesTheFrame : Obligations.HdrParseValidatesTheFrame := by
  refine ⟨rfl, fun s => ⟨exec_hdrParse_of_outside, exec_hdrParse_of_short,
    fun h hin h16 hlen hh => ?_⟩⟩
  rw [exec_hdrParse_of_header hin h16 hlen hh, magicMatches_iff]
  refine ⟨fun hmagic => parseFrom_of_wrong_magic hmagic, fun hmagic hlong => parseFrom_of_long hmagic hlong,
    fun payload hmagic hfits hplen hp => ?_⟩
  have hparse := parseFrom_of_payload (s := headerRead s h) hmagic hfits hplen hp
  rw [hparse]
  exact ⟨fun hcrc => if_neg hcrc, fun hcrc => if_pos hcrc⟩

/-! ### A frame that HDR_BUILD wrote (42_frame.md R117, R118) -/

/-- HDR_PARSE of the range that HDR_BUILD checked is in DMEM. -/
theorem inRange_of_buildChecksPass {s u : State} (hok : BuildChecksPass s) (hcfg : u.cfg = s.cfg)
    (h0 : op0 u = op0 s) (h1 : op1 u = 16 + op1 s) : InRange u (op0 u) (op1 u) := by
  obtain ⟨-, hin⟩ := hok
  rwa [InRange, hcfg, h0, h1]

/-- HDR_PARSE of a header as HDR_BUILD writes it, and after it the bytes `payload`: the checksum decides. -/
theorem exec_hdrParse_of_frame {u : State} {L crc : Word} {payload : List Byte}
    (hin : InRange u (op0 u) (op1 u)) (hop : op1 u = 16 + L.toNat) (hlen : payload.length = L.toNat)
    (hframe : Holds u.dmem (op0 u) (headerBytes u.cfg L crc ++ payload)) :
    (crc32 payload ≠ crc →
      ∃ w, exec .hdrParse u = .next w ∧ w.regs.status.errCode = .crcMismatch) ∧
    (crc32 payload = crc →
      exec .hdrParse u = .next (parseDone u (headerBytes u.cfg L crc) (crc32 payload))) := by
  obtain ⟨hheader, hp⟩ := holds_frame_iff.1 hframe
  obtain ⟨-, hspec⟩ := hdrParseValidatesTheFrame
  obtain ⟨-, -, hread⟩ := hspec u
  obtain ⟨-, -, hpayload⟩ := hread _ hin (by omega) rfl hheader
  have hlenField : (headerRead u (headerBytes u.cfg L crc)).regs.hdrLen = L :=
    congrArg Header.len (ofBytes_headerBytes u.cfg L crc)
  have hcrcField : (headerRead u (headerBytes u.cfg L crc)).regs.hdrCrc = crc :=
    congrArg Header.crc (ofBytes_headerBytes u.cfg L crc)
  rw [hlenField, hcrcField] at hpayload
  obtain ⟨hmismatch, hmatch⟩ := hpayload payload ⟨rfl, rfl, rfl, rfl⟩ hop.ge hlen hp
  exact ⟨fun hcrc => ⟨_, hmismatch hcrc, rfl⟩, hmatch⟩

/-- Settles O40: the frame still stands where HDR_BUILD left it, and its checksum is the payload's. -/
theorem frameRoundTripSucceeds : Obligations.FrameRoundTripSucceeds := by
  intro s t u payload hlegal hok hlen hp ht hcfg h0 h1 hsame
  have hin := inRange_of_buildChecksPass hok hcfg h0 h1
  have hframe : Holds u.dmem (op0 u) (headerBytes u.cfg s.eng.larg1 (crc32 payload) ++ payload) := by
    rw [h0, hcfg]
    refine holds_congr (holds_frame_of_exec_hdrBuild hok hlen hp ht) ?_
    rwa [List.length_append, hlen]
  obtain ⟨-, hmatch⟩ := exec_hdrParse_of_frame hin h1 hlen hframe
  obtain ⟨-, hpayload⟩ := holds_frame_iff.1 hframe
  have haddr : op0 u + 16 < 2 ^ 32 := by
    have hsize := dmemSize_le_of_legal (hcfg ▸ hlegal)
    rw [InRange] at hin
    omega
  rw [← h0]
  exact ⟨_, hmatch rfl, rfl, congrArg Header.len (ofBytes_headerBytes ..), rfl,
    (BitVec.toNat_ofNat ..).trans (Nat.mod_eq_of_lt haddr), decide_eq_false (not_not_intro rfl), rfl, rfl,
    hpayload⟩

/-- Flipping a bit of a byte changes the byte. -/
theorem xor_bit_ne (v : Byte) {bit : Nat} (h : bit < 8) : v ^^^ ((1#8) <<< bit) ≠ v := fun heq => by
  simpa [h] using congrArg (BitVec.getLsbD · bit) heq

theorem magicMatches_append (s : State) {magic rest : List Byte} (hlen : magic.length = 4) :
    MagicMatches s (magic ++ rest) ↔
      magic = [s.cfg.magic[0], s.cfg.magic[1], s.cfg.magic[2], s.cfg.magic[3]] := by
  obtain ⟨a, b, c, d, rfl⟩ := List.length_eq_four.1 hlen
  simp [MagicMatches]

/-- HDR_PARSE of 16 header bytes whose first four are not MAGIC. -/
theorem exec_hdrParse_of_wrong_magic {u : State} {magic rest : List Byte} (hin : InRange u (op0 u) (op1 u))
    (h16 : 16 ≤ op1 u) (hmlen : magic.length = 4) (hrlen : rest.length = 12)
    (hheader : Holds u.dmem (op0 u) (magic ++ rest))
    (hne : magic ≠ [u.cfg.magic[0], u.cfg.magic[1], u.cfg.magic[2], u.cfg.magic[3]]) :
    ∃ w, exec .hdrParse u = .next w ∧ w.regs.status.errCode = .invalidMagic := by
  obtain ⟨-, hspec⟩ := hdrParseValidatesTheFrame
  obtain ⟨-, -, hread⟩ := hspec u
  obtain ⟨hwrong, -⟩ := hread _ hin h16 (by rw [List.length_append, hmlen, hrlen]) hheader
  exact ⟨_, hwrong (by rwa [magicMatches_append u hmlen]), rfl⟩

/-- Settles O41: a flipped bit changes the checksum and not the header; the magic is compared first. -/
theorem tamperedFrameIsRejected : Obligations.TamperedFrameIsRejected := by
  intro s t u payload hok hlen hp ht hcfg h0 h1
  have hin := inRange_of_buildChecksPass hok hcfg h0 h1
  obtain ⟨hheader, hpayload⟩ := holds_frame_iff.1 (holds_frame_of_exec_hdrBuild hok hlen hp ht)
  refine ⟨fun k bit hk hbit hflip hsame => ?_, fun magic hmlen hmagic hne hsame => ?_⟩
  · rw [← hlen] at hk hsame
    have hread : t.dmem.read (op0 s + 16 + k) = some payload[k] :=
      (hpayload k hk).trans (List.getElem?_eq_getElem hk)
    have hframe : Holds u.dmem (op0 u) (headerBytes u.cfg s.eng.larg1 (crc32 payload) ++
        payload.set k (payload[k] ^^^ ((1#8) <<< bit))) := by
      rw [h0, hcfg]
      refine holds_frame_iff.2 ⟨holds_congr hheader fun x hx (hlt : x < op0 s + 16) => ?_,
        holds_set hpayload (hflip _ hread) fun x hx hlt => ?_⟩
      · exact hsame x hx (by omega) (by omega)
      · exact hsame x (by omega) (by omega)
    obtain ⟨hmismatch, -⟩ := exec_hdrParse_of_frame hin h1 (List.length_set.trans hlen) hframe
    exact hmismatch (crc32_set_ne hk (xor_bit_ne _ hbit))
  · rw [← List.take_append_drop 4 (headerBytes ..)] at hheader
    obtain ⟨-, hrest⟩ := holds_append.1 hheader
    have hbytes : Holds u.dmem (op0 u)
        (magic ++ (headerBytes s.cfg s.eng.larg1 (crc32 payload)).drop 4) := by
      rw [h0]
      refine holds_append.2 ⟨hmagic, ?_⟩
      rw [hmlen]
      exact holds_congr hrest fun x hx (hlt : x < op0 s + 4 + 12) => hsame x hx (by omega)
    exact exec_hdrParse_of_wrong_magic hin (by omega) hmlen rfl hbytes (hcfg ▸ hne)

end Sys2Proof.Machine
end

section
/-! PROOF. NOP (43_control.md R119): completion only, and the word next to its own that is no NOP. -/

namespace Sys2Proof.Machine

open Sys2Proof.Claim

theorem exec_nop (s : State) : exec .nop s = succeed s := rfl

/-- A word whose MBZ field is not zero selects no command (30_encoding.md R75). -/
theorem not_exists_decode_of_mbz {w : Word} (hmbz : w.extractLsb' 8 24 ≠ 0) :
    ¬ ∃ i, decode w = .ok i := by
  rw [decode_isOk_iff]
  exact fun ⟨hzero, _⟩ => hmbz hzero

/-- Settles O19: NOP is `complete(NONE, 0)` alone; 0x00000100 has NOP's opcode, but its MBZ is not zero. -/
theorem nopOnlyCompletes : Obligations.NopOnlyCompletes := by
  refine ⟨fun s => ?_, fun s he hword => ?_⟩
  · rw [exec_nop, succeed_eq, State.complete_eq_finished]
  · have hill : ¬ ∃ i, decode s.eng.lcmd = .ok i :=
      not_exists_decode_of_mbz (by rw [hword]; decide)
    rw [step_of_illegal he hill, hword]

end Sys2Proof.Machine
end

section
/-! PROOF. Errors (60_exceptions.md R126 to R130): what a failed command has written, the code it raises and
its ERR_INFO, command by command. -/

namespace Sys2Proof.Machine

open Sys2Proof.Claim

/-! ### What a failed command has written and reports -/

/-- `CommandFails s i u e`: the command `i`, run in `s`, raises `e` after the writes that made `u`. Of what
its checks found, each error keeps what ERR_INFO depends on (60_exceptions.md R128). -/
inductive CommandFails (s : State) : Instr → State → CmdError → Prop where
  /-- REP3_ENC, REP3_DEC: the source is not in DMEM (41_repetition.md R102, R104). -/
  | rep3Source {i : Instr} (hi : i = .rep3Enc ∨ i = .rep3Dec)
      (hsrc : ¬ InRange s (op0 s) (bytesFor (op1 s))) : CommandFails s i s ⟨.range, 0⟩
  /-- The source is in DMEM and the destination is not. -/
  | rep3Destination {i : Instr} (hi : i = .rep3Enc ∨ i = .rep3Dec)
      (hsrc : InRange s (op0 s) (bytesFor (op1 s))) : CommandFails s i s ⟨.range, 2⟩
  | rep3Overlap {i : Instr} (hi : i = .rep3Enc ∨ i = .rep3Dec) : CommandFails s i s ⟨.overlap, 0⟩
  /-- REP3_DEC of fewer than three bits (41_repetition.md R103). -/
  | rep3Short : CommandFails s .rep3Dec s ⟨.insufficientBits, s.eng.larg1⟩
  /-- CRC32 (42_frame.md R109). -/
  | crcRange : CommandFails s .crc32 s ⟨.range, 0⟩
  /-- HDR_BUILD (42_frame.md R110). -/
  | buildArg : CommandFails s .hdrBuild s ⟨.badArg, 2⟩
  | buildScheme : CommandFails s .hdrBuild s ⟨.unsupportedScheme, s.operandScheme.setWidth 32⟩
  | buildRange : CommandFails s .hdrBuild s ⟨.range, 0⟩
  /-- HDR_PARSE before it reads the header (42_frame.md R111). -/
  | parseRange : CommandFails s .hdrParse s ⟨.range, 0⟩
  | parseShort : CommandFails s .hdrParse s ⟨.frameTooShort, s.eng.larg1⟩
  /-- HDR_PARSE of the 16 header bytes `h`. -/
  | parseMagic {h : List Byte} (hlen : h.length = 16) (hh : Holds s.dmem (op0 s) h) :
      CommandFails s .hdrParse (s.recordHeader (Header.ofBytes h))
        ⟨.invalidMagic, (Header.ofBytes h).magic⟩
  | parseLength {h : List Byte} (hlen : h.length = 16) (hh : Holds s.dmem (op0 s) h) :
      CommandFails s .hdrParse (s.recordHeader (Header.ofBytes h))
        ⟨.invalidLength, (Header.ofBytes h).len⟩
  | parseCrc (h : Header) (crc : Word) :
      CommandFails s .hdrParse ((s.recordHeader h).setCrcRes crc) ⟨.crcMismatch, crc⟩

/-- `t` is the state after the command `i` that started in `s`: it raised nothing, or it failed. -/
def CommandEnds (s : State) (i : Instr) (t : State) : Prop :=
  t.regs.status.errCode = .none ∨ ∃ u e, CommandFails s i u e ∧ t = u.complete e.code e.info

theorem CommandFails.ends {s u : State} {i : Instr} {e : CmdError} (h : CommandFails s i u e) :
    CommandEnds s i (u.complete e.code e.info) := .inr ⟨u, e, h, rfl⟩

/-! ### Every command raises nothing or fails so -/

theorem runTransform_ends {i : Instr} {ref : CosTable → Block → Block} {impl : Block → Block}
    {s t : State} (h : runTransform i ref impl s = .next t) : CommandEnds s i t := by
  obtain ⟨x, -, hx⟩ | ⟨-, hx⟩ := runTransform_cases i ref impl s
  · cases hx.symm.trans h
    exact .inl rfl
  · cases hx.symm.trans h

theorem commandFails_of_rep3Check {s : State} {i : Instr} (hi : i = .rep3Enc ∨ i = .rep3Dec)
    {dst n : Nat} {e : CmdError}
    (h : rep3Check s.cfg ⟨op0 s, bytesFor (op1 s), dst, n⟩ = .error e) : CommandFails s i s e := by
  unfold rep3Check at h
  split_ifs at h with hsrc hdst hover <;> cases h
  · exact .rep3Source hi fun hin => by simp [(inRange_iff ..).2 hin] at hsrc
  · exact .rep3Destination hi ((inRange_iff ..).1 (by simpa using hsrc))
  · exact .rep3Overlap hi

theorem commandFails_of_rep3DecCheck {s : State} {e : CmdError} (h : rep3DecCheck s = .error e) :
    CommandFails s .rep3Dec s e := by
  obtain hlt | hle := Nat.lt_or_ge (op1 s) 3
  · cases (rep3DecCheck_of_lt hlt).symm.trans h
    exact .rep3Short
  · exact commandFails_of_rep3Check (.inr rfl) ((rep3DecCheck_of_le hle).symm.trans h)

theorem runRep3_ends {i : Instr} {check : Except CmdError Rep3Plan} {bit : List Byte → Nat → Bool}
    {s t : State} (herr : ∀ e, check = .error e → CommandFails s i s e)
    (h : runRep3 i check bit s = .next t) : CommandEnds s i t := by
  obtain ⟨e, he, hx⟩ | ⟨p, -, -, hx⟩ | ⟨p, bs, -, -, hx⟩ := runRep3_cases i check bit s
  · cases hx.symm.trans h
    exact (herr e he).ends
  · cases hx.symm.trans h
  · cases hx.symm.trans h
    exact .inl rfl

theorem execCrc32_ends {s t : State} (h : execCrc32 s = .next t) : CommandEnds s .crc32 t := by
  unfold execCrc32 at h
  split at h
  case isTrue =>
    cases h
    exact CommandFails.crcRange.ends
  case isFalse =>
    split at h <;> cases h
    exact .inl rfl

theorem commandFails_of_hdrBuildCheck {s : State} {e : CmdError} (h : hdrBuildCheck s = .error e) :
    CommandFails s .hdrBuild s e := by
  unfold hdrBuildCheck at h
  split_ifs at h <;> cases h
  · exact .buildArg
  · exact .buildScheme
  · exact .buildRange

theorem execHdrBuild_ends {s t : State} (h : execHdrBuild s = .next t) : CommandEnds s .hdrBuild t := by
  unfold execHdrBuild at h
  split at h
  case h_1 e he =>
    cases h
    exact (commandFails_of_hdrBuildCheck he).ends
  case h_2 =>
    split at h <;> cases h
    exact .inl rfl

/-- HDR_PARSE once the 16 header bytes `h` are read and recorded. -/
theorem parseFrom_ends {s t : State} {h : List Byte} (hlen : h.length = 16)
    (hh : Holds s.dmem (op0 s) h)
    (ht : parseFrom (Header.ofBytes h) (s.recordHeader (Header.ofBytes h)) = .next t) :
    CommandEnds s .hdrParse t := by
  obtain ⟨-, hx⟩ | ⟨-, -, hx⟩ | ⟨-, -, ⟨-, hx⟩ | ⟨_, -, ⟨-, hx⟩ | ⟨-, hx⟩⟩⟩ :=
    parseFrom_cases (Header.ofBytes h) (s.recordHeader (Header.ofBytes h)) <;> cases hx.symm.trans ht
  · exact (CommandFails.parseMagic hlen hh).ends
  · exact (CommandFails.parseLength hlen hh).ends
  · exact (CommandFails.parseCrc ..).ends
  · exact .inl rfl

theorem execHdrParse_ends {s t : State} (h : execHdrParse s = .next t) : CommandEnds s .hdrParse t := by
  by_cases hin : InRange s (op0 s) (op1 s)
  · obtain hshort | h16 := Nat.lt_or_ge (op1 s) 16
    · cases (exec_hdrParse_of_short hin hshort).symm.trans h
      exact CommandFails.parseShort.ends
    · rw [execHdrParse_of_inRange hin h16] at h
      cases hread : s.dmem.readBytes s.operand0 16 with
      | none =>
        rw [hread] at h
        cases h
      | some bytes =>
        rw [hread] at h
        obtain ⟨hlen, hbytes⟩ := (Memory.readBytes_eq_some ..).1 hread
        exact parseFrom_ends hlen (fun k hk => hbytes k (hlen ▸ hk)) h
  · cases (exec_hdrParse_of_outside hin).symm.trans h
    exact CommandFails.parseRange.ends

theorem exec_ends {i : Instr} {s t : State} (h : exec i s = .next t) : CommandEnds s i t := by
  cases i with
  | nop =>
    cases h
    exact .inl rfl
  | fdct | idct => exact runTransform_ends h
  | rep3Enc => exact runRep3_ends (fun e => commandFails_of_rep3Check (.inl rfl)) h
  | rep3Dec => exact runRep3_ends (fun e => commandFails_of_rep3DecCheck) h
  | crc32 => exact execCrc32_ends h
  | hdrBuild => exact execHdrBuild_ends h
  | hdrParse => exact execHdrParse_ends h

/-- The engine's step raises nothing, finds an ILLEGAL word, or is a failed command (60_exceptions.md
R124). -/
theorem engineStep_ends {s t : State} (h : engineStep s = .next t) :
    t.regs.status.errCode = .none ∨ t = s.complete .illegalCmd s.eng.lcmd ∨
      ∃ i u e, s.eng.lcmd = encode i ∧ CommandFails s i u e ∧ t = u.complete e.code e.info := by
  obtain ⟨i, hi, hx⟩ | ⟨_, -, hx⟩ := engineStep_cases s
  · obtain hnone | ⟨u, e, hf, ht⟩ := exec_ends (hx.symm.trans h)
    · exact .inl hnone
    · exact .inr (.inr ⟨i, u, e, (decode_eq_ok_iff ..).1 hi, hf, ht⟩)
  · cases hx.symm.trans h
    exact .inr (.inl rfl)

/-! ### The code, the frame and ERR_INFO of a failed command -/

/-- A command raises only the codes of its own rule (60_exceptions.md R127, R130). -/
theorem CommandFails.code_mem {s u : State} {i : Instr} {e : CmdError} (h : CommandFails s i u e) :
    e.code ∈ mayRaise i := by
  cases h with
  | rep3Source hi | rep3Destination hi | rep3Overlap hi => rcases hi with rfl | rfl <;> simp [mayRaise]
  | _ => simp [mayRaise]

/-- A failed command has written no DMEM, no BLK and none of the outputs (60_exceptions.md R126). -/
theorem CommandFails.frame {s u : State} {i : Instr} {e : CmdError} (h : CommandFails s i u e) :
    u.dmem = s.dmem ∧ u.blk = s.blk ∧ sameOutputs s u := by
  cases h <;> exact ⟨rfl, rfl, rfl, rfl, rfl⟩

/-- Only HDR_PARSE writes anything before its last check. -/
theorem CommandFails.eq_of_ne_hdrParse {s u : State} {i : Instr} {e : CmdError}
    (h : CommandFails s i u e) (hi : i ≠ .hdrParse) : u = s := by
  cases h with
  | parseMagic | parseLength | parseCrc => exact absurd rfl hi
  | _ => rfl

/-- CRC_RES is written only by the check that compares it. -/
theorem CommandFails.crcRes {s u : State} {i : Instr} {e : CmdError} (h : CommandFails s i u e)
    (hcode : e.code ≠ .crcMismatch) : u.regs.crcRes = s.regs.crcRes := by
  cases h with
  | parseCrc => exact absurd rfl hcode
  | _ => rfl

/-- Completion writes no header register and no information flag. -/
theorem sameHeader_complete (s : State) (code : ErrCode) (info : Word) :
    sameHeader s (s.complete code info) := ⟨rfl, rfl, rfl, rfl, rfl, rfl, rfl, rfl, rfl, rfl⟩

/-- RANGE names ARG2 exactly where a REP3 command has found its source in DMEM (60_exceptions.md R128). -/
theorem CommandFails.range_info {s u : State} {i : Instr} {e : CmdError} (h : CommandFails s i u e)
    (hi : s.eng.lcmd = encode i) (hcode : e.code = .range) :
    (e.info = 0 ∨ e.info = 2) ∧ (e.info = 2 ↔
      (s.eng.lcmd = 0x10#32 ∧ InRange s (op0 s) (bytesFor (op1 s))) ∨
      (s.eng.lcmd = 0x11#32 ∧ InRange s (op0 s) (bytesFor (op1 s)))) := by
  cases h with
  | rep3Source _ hsrc => simp [hsrc]
  | rep3Destination hrep hsrc => rcases hrep with rfl | rfl <;> simp [hi, hsrc, encode]
  | crcRange | buildRange | parseRange => simp [hi, encode]
  | _ => cases hcode

/-- Four bytes in the middle of a range. -/
theorem holds_four_of_holds {m : Memory} {a k : Nat} {bs : List Byte} (h : Holds m a bs)
    (hk : k + 4 ≤ bs.length) :
    Holds m (a + k) [bs.getD k 0, bs.getD (k + 1) 0, bs.getD (k + 2) 0, bs.getD (k + 3) 0] := by
  intro j hj
  have hj : j < 4 := hj
  have hlt : k + j < bs.length := by omega
  have hread : m.read (a + k + j) = some (bs.getD (k + j) 0) := by
    rw [Nat.add_assoc, h (k + j) hlt]
    simp [hlt]
  rw [hread]
  interval_cases j <;> rfl

/-! ### The statements -/

/-- Settles O43: the error a failed command raises is one of its own rule. -/
theorem commandsRaiseOnlyTheirOwnCodes : Obligations.CommandsRaiseOnlyTheirOwnCodes := by
  intro i s t h
  obtain hnone | ⟨u, e, hf, rfl⟩ := exec_ends h
  · exact .inl hnone
  · exact .inr hf.code_mem

/-- Settles O42: completion itself writes only DONE, ERR_CODE, ERR_INFO and BUSY, and before it a failed
command has written nothing, or is HDR_PARSE. -/
theorem errorsArePrecise : Obligations.ErrorsArePrecise := by
  intro s t he hs herr
  obtain hnone | rfl | ⟨i, u, e, hi, hf, rfl⟩ := engineStep_ends ((step_of_engineNext he).symm.trans hs)
  · exact absurd hnone herr
  · exact ⟨rfl, rfl, ⟨rfl, rfl, rfl⟩, fun _ => sameHeader_complete .., fun _ => rfl⟩
  · obtain ⟨hdmem, hblk, hout⟩ := hf.frame
    refine ⟨hdmem, hblk, hout, fun hword => ?_, fun hcode => hf.crcRes hcode⟩
    obtain rfl := hf.eq_of_ne_hdrParse (by rintro rfl; exact hword hi)
    exact sameHeader_complete ..

/-- Settles O44: each error carries its own information word, and a success 0. -/
theorem errInfoFollowsTheCode : Obligations.ErrInfoFollowsTheCode := by
  intro s t he hs
  have hstep : engineStep s = .next t := (step_of_engineNext he).symm.trans hs
  obtain hnone | rfl | ⟨i, u, e, hi, hf, rfl⟩ := engineStep_ends hstep
  · obtain ⟨_, _, _, -, hinfo, rfl⟩ := engineStep_completes hstep
    cases hnone
    exact hinfo rfl
  · rfl
  · have hrange := hf.range_info hi
    cases hf with
    | rep3Source | rep3Destination | crcRange | buildRange | parseRange => exact hrange rfl
    | parseMagic hlen hh => exact ⟨_, _, _, _, holds_four_of_holds (k := 0) hh (by omega), rfl⟩
    | parseLength hlen hh => exact ⟨_, _, _, _, holds_four_of_holds (k := 8) hh (by omega), rfl⟩
    | rep3Overlap | rep3Short | buildArg | buildScheme | parseShort | parseCrc => rfl

end Sys2Proof.Machine
end

section
/-! PROOF. Acceptance, the idle block and the interrupt (60_exceptions.md R123, R124, R135, R142): what one
step of either agent does to them. -/

namespace Sys2Proof.Machine

open Sys2Proof.Claim

/-! ### Whose turn it is -/

theorem hostNext_of_not_engineTurn {s : State} {h : HostStmt} {rest : List HostStmt}
    (hturn : s.engineTurn = false) (htodo : s.env.todo = h :: rest) : HostNext s h rest := by
  refine ⟨htodo, fun hp hd => ?_⟩
  exact absurd ((s.engineTurn_iff).2 ⟨hp, hd, by simp [htodo]⟩) (Bool.eq_false_iff.1 hturn)

/-- Settles O3: the engine's turn and the host's. -/
theorem stepRunsDecodedCommand : Obligations.StepRunsDecodedCommand :=
  ⟨fun _ _ he hi => step_of_latched he ((decode_eq_ok_iff ..).1 hi), fun _ _ _ hn => step_of_hostNext hn⟩

/-- Settles O52: it is not the engine's turn, and the host has nothing to do. -/
theorem idleBlockKeepsItsState : Obligations.IdleBlockKeepsItsState := by
  intro s hidle htodo
  obtain ⟨hturn, -⟩ | ⟨-, h, rest, hcons, -⟩ | ⟨-, hstep⟩ := step_cases s
  · obtain ⟨hp, -⟩ := (s.engineTurn_iff).1 hturn
    cases hidle.symm.trans hp
  · cases htodo.symm.trans hcons
  · exact hstep

/-! ### Acceptance -/

/-- Settles O5: CMD stands at 0x010, and a write of it is guarded by BUSY. -/
theorem cmdWriteIsAcceptedWhileIdle : Obligations.CmdWriteIsAcceptedWhileIdle := by
  intro s w rest hn
  refine ⟨fun hidle => ⟨Config.engineDelay s.env.draws, s.env.draws + 1, ?_⟩, fun hbusy => ?_⟩
  · rw [step_of_hostWrite hn rfl (placeAt_of_regAt (r := .cmd) _ rfl), State.writePlace, State.writeReg,
      whenIdle_popTodo_of_idle hidle]
    rfl
  · exact writeGives_of_writeReg hn (r := .cmd) rfl
      (whenIdle_popTodo_of_busy hbusy rest (·.accept w)) rfl

/-! ### DONE and IE under the host's steps -/

/-- What a host statement does to the registers. -/
theorem hostStmt_next_regs {h : HostStmt} {s t : State} (hs : hostStmt h s = .next t) :
    t.regs = s.regs ∨ t.regs = Regs.reset ∨
      ∃ off v, h = .write off v ∧ t.regs = (s.writePlace v (placeAt s.cfg off)).regs := by
  cases h with
  | access a =>
    obtain ⟨width, off, kind⟩ := a
    rw [hostStmt, hostAccess] at hs
    split at hs
    case isTrue => cases hs
    case isFalse hwf =>
      obtain ⟨rfl, -⟩ : width = 32 ∧ off.toNat % 4 = 0 := by simpa [Access.wellFormed] using hwf
      cases kind with
      | read =>
        cases hs
        exact .inl rfl
      | write v =>
        cases hs
        exact .inr (.inr ⟨off, v, rfl, rfl⟩)
  | expect off mask v =>
    rw [hostStmt, hostExpect] at hs
    split_ifs at hs
    cases hs
    exact .inl rfl
  | wait =>
    cases hs
    exact .inl rfl
  | powerOnReset =>
    cases hs
    exact .inr (.inl rfl)

/-- No host write sets DONE (10_state.md R30). -/
theorem State.done_of_writePlace {s : State} {v : Word} {p : Place}
    (h : (s.writePlace v p).regs.status.done = true) : s.regs.status.done = true := by
  obtain hw | ⟨-, hw⟩ | hw | hw | ⟨-, hw⟩ | ⟨-, x, y, z, hw⟩ | ⟨-, k, hi, hw⟩ | ⟨-, a, -, hw⟩ :=
    State.writePlace_cases s v p <;> rw [hw] at h
  · exact h
  · exact h
  · cases hbit : v.getLsbD 1 with
    | false => rwa [State.writeCtrl_of_noReset hbit] at h
    | true =>
      rw [State.writeCtrl_of_reset hbit] at h
      cases h
  · exact (Bool.and_eq_true_iff.1 h).1
  · cases h
  · exact h
  · exact h
  · exact h

theorem whenIdle_ctrlIe {s : State} {store : State → State}
    (h : (store s).regs.ctrlIe = s.regs.ctrlIe) : (whenIdle s store).regs.ctrlIe = s.regs.ctrlIe := by
  unfold whenIdle
  split
  · rfl
  · exact h

/-- IE is written at CTRL only (10_state.md R29). -/
theorem State.writePlace_ctrlIe (s : State) (v : Word) {p : Place} (hp : p ≠ .reg .ctrl) :
    (s.writePlace v p).regs.ctrlIe = s.regs.ctrlIe := by
  cases p with
  | blk | dmem => exact whenIdle_ctrlIe rfl
  | cosrom | reserved => rfl
  | reg r =>
    cases r with
    | ctrl => exact absurd rfl hp
    | cmd | arg0 | arg1 | arg2 => exact whenIdle_ctrlIe rfl
    | _ => rfl

/-- A CTRL write that leaves IE set asks for no reset and has bit 0 set. -/
theorem State.bits_of_writeCtrl_ctrlIe {s : State} {v : Word} (h : (s.writeCtrl v).regs.ctrlIe = true) :
    v.getLsbD 0 = true ∧ v.getLsbD 1 = false := by
  cases hbit : v.getLsbD 1 with
  | false =>
    rw [State.writeCtrl_of_noReset hbit] at h
    exact ⟨h, rfl⟩
  | true =>
    rw [State.writeCtrl_of_reset hbit] at h
    cases h

/-- CTRL stands at 0x008 and nowhere else (10_state.md R19). -/
theorem placeAt_eq_ctrl {c : Config} {off : Offset} (h : placeAt c off = .reg .ctrl) : off = 0x008#21 := by
  rw [placeAt, placeAtNat] at h
  split_ifs at h
  split at h
  case h_2 => cases h
  case h_1 r hr =>
    cases h
    unfold regAt at hr
    split at hr <;> cases hr
    exact BitVec.eq_of_toNat_eq ‹_›

/-- No host statement sets DONE. -/
theorem hostStmt_done {h : HostStmt} {s t : State} (hs : hostStmt h s = .next t)
    (ht : t.regs.status.done = true) : s.regs.status.done = true := by
  obtain hr | hr | ⟨off, v, -, hr⟩ := hostStmt_next_regs hs <;> rw [hr] at ht
  · exact ht
  · cases ht
  · exact State.done_of_writePlace ht

/-- The host sets IE by a CTRL write alone. -/
theorem hostStmt_ctrlIe_rises {h : HostStmt} {s t : State} (hs : hostStmt h s = .next t)
    (hie : s.regs.ctrlIe = false) (ht : t.regs.ctrlIe = true) :
    ∃ v, h = .write 0x008#21 v ∧ v.getLsbD 0 = true ∧ v.getLsbD 1 = false := by
  obtain hr | hr | ⟨off, v, rfl, hr⟩ := hostStmt_next_regs hs <;> rw [hr] at ht
  · cases hie.symm.trans ht
  · cases ht
  · by_cases hp : placeAt s.cfg off = .reg .ctrl
    · rw [hp] at ht
      exact ⟨v, by rw [placeAt_eq_ctrl hp], State.bits_of_writeCtrl_ctrlIe ht⟩
    · cases hie.symm.trans ((State.writePlace_ctrlIe s v hp).symm.trans ht)

/-! ### The interrupt -/

theorem State.irq_iff (s : State) :
    s.irq = true ↔ s.regs.status.done = true ∧ s.regs.ctrlIe = true := Bool.and_eq_true_iff

/-- Settles O48: a host statement never sets DONE, so where it raises IRQ it has set IE. -/
theorem interruptRisesOnlyByCompletionOrEnable : Obligations.InterruptRisesOnlyByCompletionOrEnable := by
  intro s t hs
  obtain ⟨hturn, -⟩ | ⟨hturn, h, rest, htodo, hx⟩ | ⟨-, hx⟩ := step_cases s
  · have he : EngineNext s := (s.engineTurn_iff).1 hturn
    exact ⟨fun _ _ => he, fun _ _ => .inl he⟩
  · have hstmt : hostStmt h (s.popTodo rest) = .next t := hx.symm.trans hs
    have hkept : t.regs.status.done = true → s.regs.status.done = true :=
      hostStmt_done (s := s.popTodo rest) hstmt
    refine ⟨fun hlow hhigh => ?_, fun hlow hhigh => .inr ?_⟩
    · cases hlow.symm.trans (hkept hhigh)
    · obtain ⟨hdone, hie⟩ := t.irq_iff.1 hhigh
      have hlowIe : s.regs.ctrlIe = false := by
        by_contra hset
        cases hlow.symm.trans (s.irq_iff.2 ⟨hkept hdone, Bool.eq_true_of_not_eq_false hset⟩)
      obtain ⟨v, rfl, hbits⟩ := hostStmt_ctrlIe_rises (s := s.popTodo rest) hstmt hlowIe hie
      exact ⟨hkept hdone, v, rest, hostNext_of_not_engineTurn hturn htodo, hbits⟩
  · cases hx.symm.trans hs
    exact ⟨fun hlow hhigh => (by cases hlow.symm.trans hhigh),
      fun hlow hhigh => (by cases hlow.symm.trans hhigh)⟩

end Sys2Proof.Machine
end

section
/-! PROOF. Power-on reset and soft reset (70_reset_and_hazards.md R143 to R145): the state they leave, and the
cells that a soft reset takes from the command it aborts. -/

namespace Sys2Proof.Machine

open Sys2Proof.Claim

/-! ### Power-on reset (R143) -/

theorem State.powerOn_blk (c : Config) (e : Env) (k : Fin 64) :
    (State.powerOn c e).blk[k] = ⟨none, none⟩ :=
  Vector.getElem_replicate (a := BlkElem.noValue) k.isLt

theorem State.powerOn_read (c : Config) (e : Env) (a : Nat) : (State.powerOn c e).dmem.read a = none :=
  Memory.read_nil a

/-- Settles O17: `State.reset` is a power-on state, and CFG is computed from the defaults of Table 00-1. -/
theorem resetStateIsTheTable : Obligations.ResetStateIsTheTable :=
  ⟨rfl, rfl, fun k => State.powerOn_blk _ _ k, fun a => State.powerOn_read _ _ a, rfl, rfl⟩

/-- Settles O18: the event leaves `powerOn` with the parameters and the rest of the program. -/
theorem powerOnResetStartsAgain : Obligations.PowerOnResetStartsAgain := fun s _ hn =>
  ⟨_, step_of_hostNext hn, rfl, rfl, rfl, fun k => State.powerOn_blk s.cfg s.env k,
    fun a => State.powerOn_read s.cfg s.env a, rfl⟩

/-- Settles O46: the defaults are legal, DMEM lists no byte, and every register is 0. -/
theorem resetMeetsTheInvariant : Obligations.ResetMeetsTheInvariant :=
  State.Inv.of_reset rfl Memory.reset_wf (fun _ hc => absurd hc List.not_mem_nil) rfl rfl

/-! ### Soft reset (R144) -/

theorem State.softReset_blk (s : State) :
    s.softReset.blk = if s.busy then (s.dropCells (abortCells s)).blk else s.blk := by
  unfold State.softReset
  split <;> rfl

theorem State.dropCells_popTodo (s : State) (rest : List HostStmt) (c : AbortCells) :
    (s.popTodo rest).dropCells c = (s.dropCells c).popTodo rest := by
  cases c <;> rfl

/-- What a soft reset does to the block does not depend on the bookkeeping. -/
theorem State.softReset_popTodo (s : State) (rest : List HostStmt) :
    (s.popTodo rest).softReset = s.softReset.popTodo rest := by
  have hbusy : (s.popTodo rest).busy = s.busy := rfl
  have hcells : abortCells (s.popTodo rest) = abortCells s := rfl
  rw [State.softReset, State.softReset, hbusy, hcells, State.dropCells_popTodo]
  split <;> rfl

/-- A CTRL write with bit 1 set leaves the block as `softReset` does. -/
theorem writeGives_softReset {s : State} {v : Word} {rest : List HostStmt}
    (hn : HostNext s (.write 0x008#21 v) rest) (hbit : v.getLsbD 1 = true) :
    WriteGives s rest s.softReset :=
  writeGives_of_writeReg hn (r := .ctrl) rfl
    ((State.writeCtrl_of_reset hbit _).trans (s.softReset_popTodo rest)) s.softReset_env

/-- A soft reset that aborts no writer keeps BLK and DMEM. -/
theorem State.softReset_keeps {s : State} (h : s.busy = true → abortCells s = .none) :
    s.softReset.blk = s.blk ∧ s.softReset.dmem = s.dmem := by
  rw [State.softReset_blk, State.softReset_dmem]
  split
  case isTrue hb =>
    rw [h hb]
    exact ⟨rfl, rfl⟩
  case isFalse => exact ⟨rfl, rfl⟩

/-- Settles O15: the registers and ENG are those of `softReset`, and an idle block keeps its cells. -/
theorem softResetClearsTheRegisters : Obligations.SoftResetClearsTheRegisters := by
  intro s v rest hn hbit
  refine ⟨_, writeGives_softReset hn hbit, rfl, rfl, rfl, s.softReset_cfg, rfl, fun hidle => ?_⟩
  exact State.softReset_keeps fun hb => absurd (hidle.symm.trans hb) Bool.false_ne_true

/-! ### The checks of a pending writer -/

theorem checksPass_of_rep3Check {s : State} {p q : Rep3Plan} (h : rep3Check s.cfg p = .ok q) :
    InRange s p.src p.nbIn ∧ InRange s p.dst p.nbOut ∧ ¬ Overlaps p.src p.nbIn p.dst p.nbOut := by
  obtain ⟨-, hsrc, hdst, hover⟩ := (rep3Check_eq_ok ..).1 h
  exact ⟨hsrc, hdst, fun ho => Bool.false_ne_true (hover.symm.trans ((overlap_iff ..).2 ho))⟩

theorem encChecksPass_of_ok {s : State} {p : Rep3Plan} (h : rep3EncCheck s = .ok p) : EncChecksPass s :=
  checksPass_of_rep3Check h

theorem decChecksPass_of_ok {s : State} {p : Rep3Plan} (h : rep3DecCheck s = .ok p) :
    DecChecksPass s := by
  obtain hlt | hle := Nat.lt_or_ge (op1 s) 3
  · cases (rep3DecCheck_of_lt hlt).symm.trans h
  · exact ⟨hle, checksPass_of_rep3Check ((rep3DecCheck_of_le hle).symm.trans h)⟩

/-- With MBZ 0 and scheme 1 the whole of LARG[2] is 1. -/
theorem buildChecksPass_of_ok {s : State} (h : hdrBuildCheck s = .ok ()) : BuildChecksPass s := by
  obtain ⟨hmbz, hscheme, hin⟩ := (hdrBuildCheck_eq_ok s).1 h
  have hlt := (Word.mbz_eq_zero_iff s.eng.larg2).1 (eq_of_beq hmbz)
  have hone : (s.eng.larg2.extractLsb' 0 8).toNat = 1 := congrArg BitVec.toNat hscheme
  exact ⟨BitVec.eq_of_toNat_eq ((Word.toNat_opc_of_lt hlt).symm.trans hone), hin⟩

/-! ### The cells of the pending command (R145) -/

section AbortCells

variable {s : State}

theorem abortCells_of_transform (h : s.eng.lcmd = encode .fdct ∨ s.eng.lcmd = encode .idct) :
    abortCells s = .block := by
  rcases h with h | h <;> rw [abortCells, h, decode_encode]

theorem abortCells_of_rep3Enc (h : s.eng.lcmd = encode .rep3Enc) (hok : EncChecksPass s) :
    abortCells s = .dmem (op2 s) (bytesFor (3 * op1 s)) := by
  rw [abortCells, h, decode_encode]
  exact congrArg rep3AbortCells (rep3EncCheck_of_checksPass hok)

theorem abortCells_of_rep3Dec (h : s.eng.lcmd = encode .rep3Dec) (hok : DecChecksPass s) :
    abortCells s = .dmem (op2 s) (bytesFor (op1 s / 3)) := by
  rw [abortCells, h, decode_encode]
  exact congrArg rep3AbortCells (rep3DecCheck_of_checksPass hok)

theorem abortCells_of_hdrBuild (h : s.eng.lcmd = encode .hdrBuild) (hok : BuildChecksPass s) :
    abortCells s = .dmem (op0 s) 16 := by
  simp only [abortCells, h, decode_encode, hdrBuildCheck_of_checksPass hok]
  rfl

theorem rep3AbortCells_of_not_ok {check : Except CmdError Rep3Plan} (h : ∀ p, check ≠ .ok p) :
    rep3AbortCells check = .none := by
  cases check with
  | error e => rfl
  | ok p => exact absurd rfl (h p)

/-- An illegal word, a command that writes no cell, or one whose checks fail. -/
theorem abortCells_eq_none (hfdct : s.eng.lcmd ≠ encode .fdct) (hidct : s.eng.lcmd ≠ encode .idct)
    (henc : s.eng.lcmd = encode .rep3Enc → ¬ EncChecksPass s)
    (hdec : s.eng.lcmd = encode .rep3Dec → ¬ DecChecksPass s)
    (hbuild : s.eng.lcmd = encode .hdrBuild → ¬ BuildChecksPass s) : abortCells s = .none := by
  unfold abortCells
  cases hd : decode s.eng.lcmd with
  | error e => rfl
  | ok i =>
    have hw := (decode_eq_ok_iff ..).1 hd
    cases i with
    | nop | crc32 | hdrParse => rfl
    | fdct => exact absurd hw hfdct
    | idct => exact absurd hw hidct
    | rep3Enc => exact rep3AbortCells_of_not_ok fun _ hp => henc hw (encChecksPass_of_ok hp)
    | rep3Dec => exact rep3AbortCells_of_not_ok fun _ hp => hdec hw (decChecksPass_of_ok hp)
    | hdrBuild =>
      cases hcheck : hdrBuildCheck s with
      | error e => rfl
      | ok u => exact absurd (buildChecksPass_of_ok hcheck) (hbuild hw)

end AbortCells

/-! ### What the abort leaves of BLK and DMEM -/

/-- An aborted transform takes every element and no byte. -/
theorem State.softReset_of_block {s : State} (hb : s.busy = true) (hc : abortCells s = .block) :
    (∀ k : Fin 64, s.softReset.blk[k] = ⟨none, none⟩) ∧ s.softReset.dmem = s.dmem := by
  rw [State.softReset_blk, State.softReset_dmem, if_pos hb, if_pos hb, hc]
  exact ⟨fun k => State.powerOn_blk s.cfg s.env k, rfl⟩

/-- An aborted DMEM writer takes its destination and nothing else. -/
theorem State.softReset_of_dmem {s : State} {a n : Nat} (hb : s.busy = true)
    (hc : abortCells s = .dmem a n) : s.softReset.blk = s.blk ∧
      (∀ x, a ≤ x → x < a + n → s.softReset.dmem.read x = none) ∧
      SameOutside s.dmem s.softReset.dmem a n := by
  have hdmem : s.softReset.dmem = s.dmem.eraseRange a n := by
    rw [State.softReset_dmem, if_pos hb, hc]
    rfl
  refine ⟨by rw [State.softReset_blk, if_pos hb, hc]; rfl, fun x hlo hhi => ?_, fun x hx => ?_⟩
  · rw [hdmem, Memory.read_eraseRange, if_pos ⟨hlo, hhi⟩]
  · rw [hdmem, Memory.read_eraseRange, if_neg (by omega)]

/-- Settles O16: the cells dropped are those of the latched command, row by row of R145's table. -/
theorem softResetAbortsThePendingCommand : Obligations.SoftResetAbortsThePendingCommand := by
  intro s v rest hn hbit hb
  refine ⟨_, writeGives_softReset hn hbit, rfl, rfl,
    fun h => State.softReset_of_block hb (abortCells_of_transform h),
    fun h hok => State.softReset_of_dmem hb (abortCells_of_rep3Enc h hok),
    fun h hok => State.softReset_of_dmem hb (abortCells_of_rep3Dec h hok),
    fun h hok => State.softReset_of_dmem hb (abortCells_of_hdrBuild h hok), ?_⟩
  rintro ⟨hfdct, hidct, henc, hdec, hbuild⟩
  exact State.softReset_keeps fun _ => abortCells_eq_none hfdct hidct henc hdec hbuild

end Sys2Proof.Machine
end

section
/-! PROOF. The host's accesses while BUSY = 1, at every aligned offset (70_reset_and_hazards.md R148,
R149). -/

namespace Sys2Proof.Machine

open Sys2Proof.Claim

/-! ### Writes (R148) -/

section BusyWrites

variable {s : State} {off : Offset} {v : Word} {rest : List HostStmt}

/-- Every offset of the BLK window, aligned or not, falls in an element. -/
theorem placeAt_blk_window (c : Config) (hlo : 0x400 ≤ off.toNat) (hhi : off.toNat < 0x600) :
    ∃ k hi, placeAt c off = .blk k hi :=
  ⟨_, _, by rw [placeAt, placeAtNat, if_neg (by omega), if_neg (by omega), if_pos ⟨hlo, hhi⟩]⟩

/-- At the offsets whose writes are lost the write is guarded by BUSY. -/
theorem writePlace_of_lost (h : LostWhileBusy s.cfg off.toNat) :
    ∃ store, ∀ t : State, t.writePlace v (placeAt s.cfg off) = whenIdle t store := by
  rcases h with hreg | ⟨hlo, hhi⟩ | ⟨hlo, hhi⟩
  · have guarded : ∃ r, regAt off.toNat = some r ∧
        ∃ store, ∀ t : State, t.writeReg v r = whenIdle t store := by
      simp only [List.mem_cons, List.not_mem_nil, or_false] at hreg
      rcases hreg with h | h | h | h <;> exact ⟨_, by rw [h]; rfl, _, fun _ => rfl⟩
    obtain ⟨r, hr, hstore⟩ := guarded
    rw [placeAt_of_regAt _ hr]
    exact hstore
  · obtain ⟨k, hi, hp⟩ := placeAt_blk_window s.cfg hlo hhi
    rw [hp]
    exact ⟨_, fun _ => rfl⟩
  · rw [placeAt_dmem (a := off.toNat - 0x100000) (by omega) (by omega)]
    exact ⟨_, fun _ => rfl⟩

theorem writeGives_of_lost (hn : HostNext s (.write off v) rest) (h4 : off.toNat % 4 = 0)
    (hb : s.eng.pending = true) (h : LostWhileBusy s.cfg off.toNat) : WriteGives s rest (lostWrite s) := by
  obtain ⟨store, hw⟩ := writePlace_of_lost (v := v) h
  exact writeGives_of_writePlace hn h4 rfl ((hw _).trans (whenIdle_popTodo_of_busy hb rest store)) rfl

/-- Past the guarded offsets, CTRL and STATUS there are the read-only registers, COSROM and the reserved
offsets. -/
theorem writeGives_of_ignored (hn : HostNext s (.write off v) rest) (h4 : off.toNat % 4 = 0)
    (hlost : ¬ LostWhileBusy s.cfg off.toNat) (hctrl : off.toNat ≠ 0x008) (hstatus : off.toNat ≠ 0x00C) :
    WriteGives s rest s := by
  by_cases hlisted : Listed s.cfg off.toNat
  case neg =>
    obtain ⟨reserved, -⟩ := reservedOffsetsReadZeroIgnoreWrites
    obtain ⟨-, write⟩ := reserved s off rest h4 hlisted
    exact write v hn
  case pos =>
    rw [LostWhileBusy, not_or, not_or] at hlost
    obtain ⟨hguarded, hblk, hdmem⟩ := hlost
    rcases hlisted with hreg | ⟨hlo, hhi⟩ | hin
    · refine readOnlyRegistersIgnoreWrites s off v rest ?_ hn
      simp only [List.mem_cons, List.not_mem_nil, or_false] at hreg hguarded ⊢
      omega
    · obtain ⟨k, hi, hp⟩ := placeAt_cosrom_window s.cfg (off := off) (by omega) hhi
      exact writeGives_of_writePlace hn h4 hp rfl rfl
    · exact absurd hin hdmem

end BusyWrites

/-- Settles O7: CTRL and STATUS take the write as ever, and every other offset loses or ignores it. -/
theorem writesWhileBusy : Obligations.WritesWhileBusy := by
  intro s off v rest hn h4 hb
  obtain ⟨-, ctrl, -⟩ := ctrlWriteSetsIeOrResets
  obtain ⟨-, -, status⟩ := statusFieldsAndWriteOneToClear
  refine ⟨writeGives_of_lost hn h4 hb, fun hoff hbit => ?_, fun hoff hbit => ?_, fun hoff => ?_,
    writeGives_of_ignored hn h4⟩
  · obtain rfl : off = 0x008#21 := BitVec.eq_of_toNat_eq hoff
    obtain ⟨setIe, -⟩ := ctrl s v rest hn
    exact setIe hbit
  · obtain rfl : off = 0x008#21 := BitVec.eq_of_toNat_eq hoff
    exact ⟨_, writeGives_softReset hn hbit, rfl, rfl⟩
  · obtain rfl : off = 0x00C#21 := BitVec.eq_of_toNat_eq hoff
    exact status s v rest hn

/-! ### Reads (R149) -/

/-- A read answers one value. -/
theorem readGives_inj {s : State} {rest : List HostStmt} {v w : Word} (hv : ReadGives s rest v)
    (hw : ReadGives s rest w) : v = w := by
  have hstate := Host.Outcome.next.inj (hv.symm.trans hw)
  exact Option.some.inj (congrArg (fun t : State => t.env.rdata) hstate)

/-- Settles O8: all but the result registers among the word registers, COSROM and the reserved offsets
read the same whatever BUSY is. -/
theorem readsWhileBusy : Obligations.ReadsWhileBusy := by
  intro s off rest hn h4 _
  have hread := readGives_readWindow hn h4
  have reg : ∀ (n : Nat) (r : RegName), regAt n = some r → r.isResult = false → off.toNat = n →
      s.readWindow off = s.readReg r := fun n r hr hexact hoff =>
    readWindow_of_reg (hoff ▸ hr) (.inr hexact)
  obtain ⟨reserved, -⟩ := reservedOffsetsReadZeroIgnoreWrites
  refine ⟨_, hread, reg _ .id rfl rfl, reg _ .cfg rfl rfl, reg _ .ctrl rfl rfl, reg _ .status rfl rfl,
    reg _ .cmd rfl rfl, reg _ .errInfo rfl rfl, reg _ .arg0 rfl rfl, reg _ .arg1 rfl rfl,
    reg _ .arg2 rfl rfl, reg _ .frameMagic rfl rfl, reg _ .frameVersion rfl rfl,
    fun i u hoff => ?_, fun i u hoff => ?_, fun hoff => ?_⟩
  · obtain ⟨low, -⟩ := cosromWindowReadsTheConstants s i u off rest
    exact readGives_inj hread (low hoff hn)
  · obtain ⟨-, high, -⟩ := cosromWindowReadsTheConstants s i u off rest
    exact readGives_inj hread (high hoff hn)
  · obtain ⟨zero, -⟩ := reserved s off rest h4 hoff
    exact readGives_inj hread (zero hn)

end Sys2Proof.Machine
end

section
/-! PROOF. Runs of a pending command (70_reset_and_hazards.md R153, R155): the engine's step comes after
finitely many host steps, and a program that ended while BUSY = 1 is stuck. -/

namespace Sys2Proof.Machine

open Sys2Proof.Claim

/-! ### A program that ended while BUSY = 1 (R155) -/

theorem step_of_todo_nil {s : State} (h : s.env.todo = []) : step s = .next s := by
  obtain ⟨hturn, -⟩ | ⟨-, _, _, hcons, -⟩ | ⟨-, hstep⟩ := step_cases s
  · obtain ⟨-, -, hne⟩ := (s.engineTurn_iff).1 hturn
    exact absurd h hne
  · cases h.symm.trans hcons
  · exact hstep

/-- Once the host program has ended every run stays where it is. -/
theorem reaches_of_todo_nil {s : State} (h : s.env.todo = []) (k : Nat) {t : State}
    (hr : Reaches k s t) : t = s := by
  induction k with
  | zero => exact (reaches_zero s t).1 hr
  | succ k ih =>
    obtain ⟨u, hu, hut⟩ := (reaches_succ k s t).1 hr
    cases (step_of_todo_nil h).symm.trans hu
    exact ih hut

/-- What a run reaches in `j + m` steps it reaches in `m` steps from its state after `j`. -/
theorem reaches_of_reaches_add {j m : Nat} {s t u : State} (ht : Reaches (j + m) s t)
    (hu : Reaches j s u) : Reaches m u t := by
  induction j generalizing s with
  | zero =>
    cases (reaches_zero s u).1 hu
    rwa [Nat.zero_add] at ht
  | succ j ih =>
    rw [Nat.succ_add] at ht
    obtain ⟨s₁, hs₁, ht⟩ := (reaches_succ _ s t).1 ht
    obtain ⟨s₂, hs₂, hu⟩ := (reaches_succ j s u).1 hu
    cases hs₁.symm.trans hs₂
    exact ih ht hu

theorem not_ended_of_endedBusy {s : State} (h : EndedBusy s) : ¬ Ended s := fun ⟨_, hidle⟩ =>
  Bool.false_ne_true (hidle.symm.trans h.2)

/-- Settles O56: a run that passes through such a state stays there, so it reaches no end. -/
theorem programEndedWhileBusyIsStuck : Obligations.ProgramEndedWhileBusyIsStuck := by
  have stays : ∀ k s t, EndedBusy s → Reaches k s t → t = s ∧ ¬ Ended t := by
    intro k s t h hr
    obtain rfl := reaches_of_todo_nil h.1 k hr
    exact ⟨rfl, not_ended_of_endedBusy h⟩
  refine ⟨fun s h => step_of_todo_nil h.1, stays, fun k s t => ⟨fun ⟨hr, hend, _⟩ => ⟨hr, hend⟩, ?_⟩⟩
  rintro ⟨hr, hend⟩
  refine ⟨hr, hend, fun j u hj hu hbusy => ?_⟩
  obtain ⟨m, rfl⟩ := Nat.exists_eq_add_of_le hj
  obtain ⟨-, hnot⟩ := stays m u t hbusy (reaches_of_reaches_add hr hu)
  exact hnot hend

/-! ### The engine's step comes (R153) -/

/-- Host steps have led from `s` to `t`: the command is as accepted, the program holds no statement it did
not hold, and a WAIT is still there. -/
structure StillWaiting (s t : State) : Prop where
  eng : t.eng = s.eng
  blk : t.blk = s.blk
  dmem : t.dmem = s.dmem
  todo : ∀ h ∈ t.env.todo, h ∈ s.env.todo
  wait : HostStmt.wait ∈ s.env.todo → HostStmt.wait ∈ t.env.todo

theorem StillWaiting.refl (s : State) : StillWaiting s s := ⟨rfl, rfl, rfl, fun _ h => h, id⟩

theorem StillWaiting.trans {s t u : State} (h : StillWaiting s t) (h' : StillWaiting t u) :
    StillWaiting s u :=
  ⟨h'.eng.trans h.eng, h'.blk.trans h.blk, h'.dmem.trans h.dmem, fun g hg => h.todo g (h'.todo g hg),
    h'.wait ∘ h.wait⟩

section HarmlessStep

variable {s : State} {rest : List HostStmt}

/-- A write that is no soft reset keeps the pending command and the cells it works on. -/
theorem exists_writeGives_of_noReset {off : Offset} {v : Word} (hn : HostNext s (.write off v) rest)
    (h4 : off.toNat % 4 = 0) (hb : s.eng.pending = true)
    (hreset : off.toNat = 0x008 → v.getLsbD 1 = false) :
    ∃ t, WriteGives s rest t ∧ t.eng = s.eng ∧ t.blk = s.blk ∧ t.dmem = s.dmem := by
  obtain ⟨lost, ctrl, -, status, ignored⟩ := writesWhileBusy s off v rest hn h4 hb
  by_cases hlost : LostWhileBusy s.cfg off.toNat
  · exact ⟨_, lost hlost, rfl, rfl, rfl⟩
  by_cases hctrl : off.toNat = 0x008
  · exact ⟨_, ctrl hctrl (hreset hctrl), rfl, rfl, rfl⟩
  by_cases hstatus : off.toNat = 0x00C
  · exact ⟨_, status hstatus, rfl, rfl, rfl⟩
  · exact ⟨_, ignored hlost hctrl hstatus, rfl, rfl, rfl⟩

/-- A WAIT stays while STATUS shows BUSY = 1 (30_encoding.md R78). -/
theorem hostWait_of_busy (hb : s.eng.pending = true) : hostWait s =
    .next { s.hostRead statusOffset with env := { (s.hostRead statusOffset).env with
      todo := .wait :: s.env.todo } } := by
  have hread : s.readWindow statusOffset = s.statusWord :=
    readWindow_of_reg (r := .status) rfl (.inr rfl)
  have hbit : (s.readWindow statusOffset).getLsbD 0 = true := by
    rw [hread, s.statusWord_flag (by decide)]
    exact hb
  rw [hostWait, if_pos hbit]
  rfl

/-- A harmless statement brings the engine's step nearer and leaves its command alone. -/
theorem step_of_harmless {h : HostStmt} (hn : HostNext s h rest) (hb : s.eng.pending = true)
    (hh : Harmless h) : ∃ t, step s = .next t ∧ StillWaiting s t ∧ t.env.delay = s.env.delay - 1 := by
  have htodo : s.env.todo = h :: rest := hn.1
  cases h with
  | expect | powerOnReset => exact hh.elim
  | wait =>
    refine ⟨_, (step_of_hostNext hn).trans (hostWait_of_busy hb), ⟨rfl, rfl, rfl, ?_, ?_⟩, rfl⟩
    · exact fun _ hg => htodo ▸ hg
    · exact fun _ => List.mem_cons_self
  | access a =>
    obtain ⟨width, off, kind⟩ := a
    obtain ⟨hwf, hreset⟩ := hh
    obtain ⟨rfl, h4⟩ : width = 32 ∧ off.toNat % 4 = 0 := by simpa [Access.wellFormed] using hwf
    have hsub : ∀ g ∈ rest, g ∈ s.env.todo := fun _ hg => htodo ▸ List.mem_cons_of_mem _ hg
    have hwait : HostStmt.wait ∈ s.env.todo → HostStmt.wait ∈ rest := by simp [htodo]
    cases kind with
    | read => exact ⟨_, readGives_readWindow hn h4, ⟨rfl, rfl, rfl, hsub, hwait⟩, rfl⟩
    | write v =>
      obtain ⟨t, ht, heng, hblk, hdmem⟩ := exists_writeGives_of_noReset hn h4 hb (hreset v rfl)
      exact ⟨_, ht, ⟨heng, hblk, hdmem, hsub, hwait⟩, rfl⟩

end HarmlessStep

/-- By induction on the number of host steps that may still come first. -/
theorem exists_engineNext_or_endedBusy (n : Nat) {s : State} (hdelay : s.env.delay = n)
    (hb : s.eng.pending = true) (hh : ∀ h ∈ s.env.todo, Harmless h) :
    ∃ k t, k ≤ n ∧ Reaches k s t ∧ (EngineNext t ∨ EndedBusy t) ∧ StillWaiting s t := by
  induction n generalizing s with
  | zero =>
    refine ⟨0, s, le_rfl, rfl, ?_, .refl s⟩
    by_cases htodo : s.env.todo = []
    · exact .inr ⟨htodo, hb⟩
    · exact .inl ⟨hb, hdelay, htodo⟩
  | succ n ih =>
    cases htodo : s.env.todo with
    | nil => exact ⟨0, s, Nat.zero_le _, rfl, .inr ⟨htodo, hb⟩, .refl s⟩
    | cons h rest =>
      have hn : HostNext s h rest := ⟨htodo, fun _ => by omega⟩
      obtain ⟨u, hu, hsu, hd⟩ := step_of_harmless hn hb (hh h (by simp [htodo]))
      obtain ⟨k, t, hk, hut, hdone, hst⟩ :=
        ih (by omega) (hsu.eng ▸ hb) (fun g hg => hh g (hsu.todo g hg))
      exact ⟨k + 1, t, by omega, (reaches_succ k s t).2 ⟨u, hu, hut⟩, hdone, hsu.trans hst⟩

/-- Settles O50: a WAIT that is still there says that the program has not ended. -/
theorem engineStepComesAfterFinitelyManyHostSteps :
    Obligations.EngineStepComesAfterFinitelyManyHostSteps := by
  intro s hb hh
  obtain ⟨k, t, hk, hr, hdone, hst⟩ := exists_engineNext_or_endedBusy s.env.delay rfl hb hh
  refine ⟨k, t, hk, hr, hdone, fun hwait => ?_, hst.eng, hst.blk, hst.dmem⟩
  have notEnded : ¬ EndedBusy t := fun ⟨htodo, _⟩ =>
    absurd (htodo ▸ hst.wait hwait) List.not_mem_nil
  exact hdone.resolve_right notEnded

end Sys2Proof.Machine
end
